-- ==== Sys2Proof/Word.lean ====
section
/-! DEFINITION. The two word types of the Intel 8080: 8-bit data and 16-bit addresses (spec 00_scope.md rules R1, R4, R5). -/

namespace Sys2Proof

/-- An 8-bit quantity: the unit of memory, of the data bus and of the registers (00_scope R4, R5). -/
abbrev Byte := BitVec 8

/-- A 16-bit quantity: PC, SP, a register pair, a memory address (00_scope R4, R5). -/
abbrev Word := BitVec 16

end Sys2Proof
end

