-- ==== Sys2Proof/Machine/Bits.lean ====
section
/-! DEFINITION. Byte order and concatenation: `hi`, `lo` and `a : b` of spec 00_scope.md rule R6. -/

namespace Sys2Proof.Machine

/-- `hi(v)` = v[15:8] (00_scope R6). -/
def hi (w : Word) : Byte := w.extractLsb' 8 8

/-- `lo(v)` = v[7:0] (00_scope R6). -/
def lo (w : Word) : Byte := w.extractLsb' 0 8

/-- `high : low`, the first-named byte high-order (00_scope R6, 20_memory R43). -/
def joinBytes (high low : Byte) : Word := high ++ low

end Sys2Proof.Machine
end

