-- ==== Sys2Proof/Syntax.lean ====
section
/-! DEFINITION. The instructions of the Intel 8080 as data: one constructor per row of spec/opcode_table.json
(the twelve rows of the mnemonic "(undefined)" share the constructor `undefined`, whose operand is the byte). -/

namespace Sys2Proof

/-- The seven 8-bit registers a 3-bit register field can name (10_state R11, R12). -/
inductive Reg where
  | b | c | d | e | h | l | a
deriving DecidableEq, Repr

/-- The register pairs of LXI, INX, DCX and DAD (10_state R14, first column). -/
inductive Pair where
  | bc | de | hl | sp
deriving DecidableEq, Repr

/-- The register pairs of PUSH and POP (10_state R14, second column). -/
inductive StackPair where
  | bc | de | hl
deriving DecidableEq, Repr

/-- The register pairs of LDAX and STAX (10_state R14, third column). -/
inductive IndexPair where
  | bc | de
deriving DecidableEq, Repr

/-- The eight conditions of the conditional jumps, calls and returns (44_branch R180). -/
inductive Cond where
  | nz | z | nc | c | po | pe | p | m
deriving DecidableEq, Repr

/-- The instructions (30_encoding R77). Operands are named as the manual names them: `dst` is DDD, `src` is SSS,
`rp` is RP, `n` is NNN, `data` is byte 2, `data16` and `addr` are byte3 : byte2, `port` is byte 2. -/
inductive Instr where
  -- data transfer group (41_data_transfer)
  | movRR (dst src : Reg)
  | movRM (dst : Reg)
  | movMR (src : Reg)
  | mviR (dst : Reg) (data : Byte)
  | mviM (data : Byte)
  | lxi (rp : Pair) (data16 : Word)
  | lda (addr : Word)
  | sta (addr : Word)
  | lhld (addr : Word)
  | shld (addr : Word)
  | ldax (rp : IndexPair)
  | stax (rp : IndexPair)
  | xchg
  -- arithmetic group (42_arithmetic)
  | addR (src : Reg)
  | addM
  | adi (data : Byte)
  | adcR (src : Reg)
  | adcM
  | aci (data : Byte)
  | subR (src : Reg)
  | subM
  | sui (data : Byte)
  | sbbR (src : Reg)
  | sbbM
  | sbi (data : Byte)
  | inrR (dst : Reg)
  | inrM
  | dcrR (dst : Reg)
  | dcrM
  | inx (rp : Pair)
  | dcx (rp : Pair)
  | dad (rp : Pair)
  | daa
  -- logical group (43_logical)
  | anaR (src : Reg)
  | anaM
  | ani (data : Byte)
  | xraR (src : Reg)
  | xraM
  | xri (data : Byte)
  | oraR (src : Reg)
  | oraM
  | ori (data : Byte)
  | cmpR (src : Reg)
  | cmpM
  | cpi (data : Byte)
  | rlc
  | rrc
  | ral
  | rar
  | cma
  | cmc
  | stc
  -- branch group (44_branch)
  | jmp (addr : Word)
  | jnz (addr : Word)
  | jz (addr : Word)
  | jnc (addr : Word)
  | jc (addr : Word)
  | jpo (addr : Word)
  | jpe (addr : Word)
  | jp (addr : Word)
  | jm (addr : Word)
  | call (addr : Word)
  | cnz (addr : Word)
  | cz (addr : Word)
  | cnc (addr : Word)
  | cc (addr : Word)
  | cpo (addr : Word)
  | cpe (addr : Word)
  | cp (addr : Word)
  | cm (addr : Word)
  | ret
  | rnz
  | rz
  | rnc
  | rc
  | rpo
  | rpe
  | rp
  | rm
  | rst (n : BitVec 3)
  | pchl
  -- stack, I/O and machine control group (45_stack_io_control)
  | push (rp : StackPair)
  | pushPsw
  | pop (rp : StackPair)
  | popPsw
  | xthl
  | sphl
  | inPort (port : Byte)
  | outPort (port : Byte)
  | ei
  | di
  | hlt
  | nop
  /-- One of the twelve first-byte values the source defines nowhere (30_encoding R78). -/
  | undefined (op : Byte)
deriving DecidableEq, Repr

end Sys2Proof
end

