-- ==== Sys2Proof/WellFormed.lean ====
section
/-! DEFINITION. Which terms of `Instr` are instructions of the map. The operand types are exact (a register code 110, a pair
SP of PUSH, a restart number above 7 cannot be written), so the one check left is that `undefined` carries one of the
twelve values of 30_encoding.md rule R78. -/

namespace Sys2Proof

/-- The twelve first-byte values with no entry anywhere in the source (30_encoding R78). -/
def undefinedOpcodes : List Byte :=
  [0x08, 0x10, 0x18, 0x20, 0x28, 0x30, 0x38, 0xCB, 0xD9, 0xDD, 0xED, 0xFD]

/-- A term is well formed unless it calls a defined opcode undefined (30_encoding R78, R79). -/
def Instr.wf : Instr → Bool
  | .undefined op => undefinedOpcodes.contains op
  | _ => true

end Sys2Proof
end

