-- ==== Sys2Proof/Decode.lean ====
section
/-! DEFINITION. The instruction decoder, total on any bytes and rejecting by name, and after it the encoder, both written from
the encoding tables of spec 30_encoding.md (rules R71 to R77) and the register codes of 10_state.md (rules R12, R14). -/

namespace Sys2Proof

open Sys2Proof.Machine (hi lo joinBytes)

/-! ### The fields of the first byte (30_encoding R73) -/

/-- op[7:6]. -/
def groupField (op : Byte) : BitVec 2 := op.extractLsb' 6 2

/-- op[5:3]: DDD, the ALU operation, CCC or NNN. -/
def midField (op : Byte) : BitVec 3 := op.extractLsb' 3 3

/-- op[2:0]: SSS. -/
def lowField (op : Byte) : BitVec 3 := op.extractLsb' 0 3

/-! ### Codes (10_state R12, R14; 44_branch R180) -/

/-- The register a 3-bit code names; 110 is the memory operand, not a register (10_state R12). -/
def regOfCode (c : BitVec 3) : Option Reg :=
  match c.toNat with
  | 0 => some .b
  | 1 => some .c
  | 2 => some .d
  | 3 => some .e
  | 4 => some .h
  | 5 => some .l
  | 6 => none
  | _ => some .a

/-- The 3-bit code of a register (10_state R12). -/
def Reg.code : Reg → BitVec 3
  | .b => 0b000
  | .c => 0b001
  | .d => 0b010
  | .e => 0b011
  | .h => 0b100
  | .l => 0b101
  | .a => 0b111

/-- The pair RP names in LXI, INX, DCX and DAD: op[5:4] (10_state R14). -/
def pairOfCode (c : BitVec 2) : Pair :=
  match c.toNat with
  | 0 => .bc
  | 1 => .de
  | 2 => .hl
  | _ => .sp

/-- The 2-bit code of a pair of LXI, INX, DCX and DAD (10_state R14). -/
def Pair.code : Pair → BitVec 2
  | .bc => 0b00
  | .de => 0b01
  | .hl => 0b10
  | .sp => 0b11

/-- The 2-bit code of a pair of PUSH and POP (10_state R14). -/
def StackPair.code : StackPair → BitVec 2
  | .bc => 0b00
  | .de => 0b01
  | .hl => 0b10

/-- The 1-bit code P of a pair of LDAX and STAX (30_encoding R77). -/
def IndexPair.code : IndexPair → BitVec 1
  | .bc => 0b0
  | .de => 0b1

/-- The 3-bit code CCC of a condition (44_branch R180). -/
def Cond.code : Cond → BitVec 3
  | .nz => 0b000
  | .z => 0b001
  | .nc => 0b010
  | .c => 0b011
  | .po => 0b100
  | .pe => 0b101
  | .p => 0b110
  | .m => 0b111

/-! ### Length (30_encoding R74) -/

/-- How many bytes the instruction with this first byte has. For the twelve undefined values the spec gives no length:
only the opcode byte is fetched before the instruction acts (30_encoding R78, log 13). -/
def opLength (op : Byte) : Nat :=
  match (groupField op).toNat, (lowField op).toNat, (midField op).toNat with
  | 0, 1, m => if m % 2 = 0 then 3 else 1
  | 0, 2, 4 => 3
  | 0, 2, 5 => 3
  | 0, 2, 6 => 3
  | 0, 2, 7 => 3
  | 0, 6, _ => 2
  | 3, 2, _ => 3
  | 3, 3, 0 => 3
  | 3, 3, 2 => 2
  | 3, 3, 3 => 2
  | 3, 4, _ => 3
  | 3, 5, 1 => 3
  | 3, 6, _ => 2
  | _, _, _ => 1

/-! ### The map of the first byte (30_encoding R76, R77) -/

/-- Group 00: MVI, LXI, INR, DCR, INX, DCX, DAD, direct and indirect loads and stores, rotates, DAA, CMA, STC, CMC, NOP. -/
def decodeMisc (op b2 b3 : Byte) : Instr :=
  let rp := pairOfCode (op.extractLsb' 4 2)
  match (lowField op).toNat, (midField op).toNat with
  | 0, 0 => .nop
  | 0, _ => .undefined op
  | 1, m => if m % 2 = 0 then .lxi rp (joinBytes b3 b2) else .dad rp
  | 2, 0 => .stax .bc
  | 2, 1 => .ldax .bc
  | 2, 2 => .stax .de
  | 2, 3 => .ldax .de
  | 2, 4 => .shld (joinBytes b3 b2)
  | 2, 5 => .lhld (joinBytes b3 b2)
  | 2, 6 => .sta (joinBytes b3 b2)
  | 2, _ => .lda (joinBytes b3 b2)
  | 3, m => if m % 2 = 0 then .inx rp else .dcx rp
  | 4, _ => match regOfCode (midField op) with
    | some r => .inrR r
    | none => .inrM
  | 5, _ => match regOfCode (midField op) with
    | some r => .dcrR r
    | none => .dcrM
  | 6, _ => match regOfCode (midField op) with
    | some r => .mviR r b2
    | none => .mviM b2
  | _, 0 => .rlc
  | _, 1 => .rrc
  | _, 2 => .ral
  | _, 3 => .rar
  | _, 4 => .daa
  | _, 5 => .cma
  | _, 6 => .stc
  | _, _ => .cmc

/-- Group 01: MOV, with HLT where both codes are 110. -/
def decodeMov (op : Byte) : Instr :=
  match regOfCode (midField op), regOfCode (lowField op) with
  | some dst, some src => .movRR dst src
  | some dst, none => .movRM dst
  | none, some src => .movMR src
  | none, none => .hlt

/-- Group 10: accumulator arithmetic and logic with a register or M; op[5:3] is the operation (30_encoding R73). -/
def decodeAlu (op : Byte) : Instr :=
  match (midField op).toNat, regOfCode (lowField op) with
  | 0, some src => .addR src
  | 0, none => .addM
  | 1, some src => .adcR src
  | 1, none => .adcM
  | 2, some src => .subR src
  | 2, none => .subM
  | 3, some src => .sbbR src
  | 3, none => .sbbM
  | 4, some src => .anaR src
  | 4, none => .anaM
  | 5, some src => .xraR src
  | 5, none => .xraM
  | 6, some src => .oraR src
  | 6, none => .oraM
  | _, some src => .cmpR src
  | _, none => .cmpM

/-- Group 11: branch, stack, I/O, control and the immediate arithmetic and logic. -/
def decodeControl (op b2 b3 : Byte) : Instr :=
  let addr := joinBytes b3 b2
  match (lowField op).toNat, (midField op).toNat with
  | 0, 0 => .rnz
  | 0, 1 => .rz
  | 0, 2 => .rnc
  | 0, 3 => .rc
  | 0, 4 => .rpo
  | 0, 5 => .rpe
  | 0, 6 => .rp
  | 0, _ => .rm
  | 1, 0 => .pop .bc
  | 1, 1 => .ret
  | 1, 2 => .pop .de
  | 1, 3 => .undefined op
  | 1, 4 => .pop .hl
  | 1, 5 => .pchl
  | 1, 6 => .popPsw
  | 1, _ => .sphl
  | 2, 0 => .jnz addr
  | 2, 1 => .jz addr
  | 2, 2 => .jnc addr
  | 2, 3 => .jc addr
  | 2, 4 => .jpo addr
  | 2, 5 => .jpe addr
  | 2, 6 => .jp addr
  | 2, _ => .jm addr
  | 3, 0 => .jmp addr
  | 3, 1 => .undefined op
  | 3, 2 => .outPort b2
  | 3, 3 => .inPort b2
  | 3, 4 => .xthl
  | 3, 5 => .xchg
  | 3, 6 => .di
  | 3, _ => .ei
  | 4, 0 => .cnz addr
  | 4, 1 => .cz addr
  | 4, 2 => .cnc addr
  | 4, 3 => .cc addr
  | 4, 4 => .cpo addr
  | 4, 5 => .cpe addr
  | 4, 6 => .cp addr
  | 4, _ => .cm addr
  | 5, 0 => .push .bc
  | 5, 1 => .call addr
  | 5, 2 => .push .de
  | 5, 3 => .undefined op
  | 5, 4 => .push .hl
  | 5, 5 => .undefined op
  | 5, 6 => .pushPsw
  | 5, _ => .undefined op
  | 6, 0 => .adi b2
  | 6, 1 => .aci b2
  | 6, 2 => .sui b2
  | 6, 3 => .sbi b2
  | 6, 4 => .ani b2
  | 6, 5 => .xri b2
  | 6, 6 => .ori b2
  | 6, _ => .cpi b2
  | _, _ => .rst (midField op)

/-- The instruction with first byte `op`, second byte `b2` and third byte `b3`; a shorter instruction ignores the bytes it
does not have (30_encoding R70, R76). -/
def decodeOp (op b2 b3 : Byte) : Instr :=
  match (groupField op).toNat with
  | 0 => decodeMisc op b2 b3
  | 1 => decodeMov op
  | 2 => decodeAlu op
  | _ => decodeControl op b2 b3

/-- Why a list of bytes is no instruction: there is no byte, or the instruction `op` begins has more bytes than the list. -/
inductive DecodeError where
  | noBytes
  | truncated (op : Byte)
deriving DecidableEq, Repr

/-- The instruction at the head of a list of bytes, lowest address first, with the bytes left over (30_encoding R71, R74).
Every first byte decodes (R76: 244 values are defined, the twelve others give `undefined`). -/
def decode : List Byte → Except DecodeError (Instr × List Byte)
  | [] => .error .noBytes
  | op :: rest =>
    match opLength op, rest with
    | 1, rest => .ok (decodeOp op 0 0, rest)
    | 2, b2 :: rest => .ok (decodeOp op b2 0, rest)
    | 3, b2 :: b3 :: rest => .ok (decodeOp op b2 b3, rest)
    | _, _ => .error (.truncated op)

/-- The bytes of a little-endian word whose bits from `nbits` on are zero: byte k is bits 8k+7 to 8k. -/
def tableByte (nbits w k : Nat) : Byte := BitVec.ofNat 8 (w % 2 ^ nbits / 2 ^ (8 * k))

/-- The instruction the decoder reads from the bits `w` of an opcode-table row of `nbits` bits: the first byte is bits
7..0, the second 15..8, the third 23..16, and every bit above `nbits` is zero. -/
def decodeTableWord (nbits w : Nat) : Option Instr :=
  match decode [tableByte nbits w 0, tableByte nbits w 1, tableByte nbits w 2] with
  | .ok (i, _) => some i
  | .error _ => none

/-! ### The encoder (30_encoding R75, R77) -/

/-- An instruction of format F1 (30_encoding R71). -/
def oneByte (op : Byte) : List Byte := [op]

/-- An instruction of format F2: the operand byte follows (30_encoding R71). -/
def twoBytes (op data : Byte) : List Byte := [op, data]

/-- An instruction of format F3: low-order byte, then high-order byte (30_encoding R71, R75). -/
def threeBytes (op : Byte) (addr : Word) : List Byte := [op, lo addr, hi addr]

/-- The bytes of an instruction, lowest address first (30_encoding R77). -/
def encode : Instr → List Byte
  | .movRR dst src => oneByte (0b01#2 ++ dst.code ++ src.code)
  | .movRM dst => oneByte (0b01#2 ++ dst.code ++ 0b110#3)
  | .movMR src => oneByte (0b01110#5 ++ src.code)
  | .mviR dst data => twoBytes (0b00#2 ++ dst.code ++ 0b110#3) data
  | .mviM data => twoBytes 0b00110110 data
  | .lxi rp data16 => threeBytes (0b00#2 ++ rp.code ++ 0b0001#4) data16
  | .lda addr => threeBytes 0b00111010 addr
  | .sta addr => threeBytes 0b00110010 addr
  | .lhld addr => threeBytes 0b00101010 addr
  | .shld addr => threeBytes 0b00100010 addr
  | .ldax rp => oneByte (0b000#3 ++ rp.code ++ 0b1010#4)
  | .stax rp => oneByte (0b000#3 ++ rp.code ++ 0b0010#4)
  | .xchg => oneByte 0b11101011
  | .addR src => oneByte (0b10000#5 ++ src.code)
  | .addM => oneByte 0b10000110
  | .adi data => twoBytes 0b11000110 data
  | .adcR src => oneByte (0b10001#5 ++ src.code)
  | .adcM => oneByte 0b10001110
  | .aci data => twoBytes 0b11001110 data
  | .subR src => oneByte (0b10010#5 ++ src.code)
  | .subM => oneByte 0b10010110
  | .sui data => twoBytes 0b11010110 data
  | .sbbR src => oneByte (0b10011#5 ++ src.code)
  | .sbbM => oneByte 0b10011110
  | .sbi data => twoBytes 0b11011110 data
  | .inrR dst => oneByte (0b00#2 ++ dst.code ++ 0b100#3)
  | .inrM => oneByte 0b00110100
  | .dcrR dst => oneByte (0b00#2 ++ dst.code ++ 0b101#3)
  | .dcrM => oneByte 0b00110101
  | .inx rp => oneByte (0b00#2 ++ rp.code ++ 0b0011#4)
  | .dcx rp => oneByte (0b00#2 ++ rp.code ++ 0b1011#4)
  | .dad rp => oneByte (0b00#2 ++ rp.code ++ 0b1001#4)
  | .daa => oneByte 0b00100111
  | .anaR src => oneByte (0b10100#5 ++ src.code)
  | .anaM => oneByte 0b10100110
  | .ani data => twoBytes 0b11100110 data
  | .xraR src => oneByte (0b10101#5 ++ src.code)
  | .xraM => oneByte 0b10101110
  | .xri data => twoBytes 0b11101110 data
  | .oraR src => oneByte (0b10110#5 ++ src.code)
  | .oraM => oneByte 0b10110110
  | .ori data => twoBytes 0b11110110 data
  | .cmpR src => oneByte (0b10111#5 ++ src.code)
  | .cmpM => oneByte 0b10111110
  | .cpi data => twoBytes 0b11111110 data
  | .rlc => oneByte 0b00000111
  | .rrc => oneByte 0b00001111
  | .ral => oneByte 0b00010111
  | .rar => oneByte 0b00011111
  | .cma => oneByte 0b00101111
  | .cmc => oneByte 0b00111111
  | .stc => oneByte 0b00110111
  | .jmp addr => threeBytes 0b11000011 addr
  | .jnz addr => threeBytes (0b11#2 ++ Cond.nz.code ++ 0b010#3) addr
  | .jz addr => threeBytes (0b11#2 ++ Cond.z.code ++ 0b010#3) addr
  | .jnc addr => threeBytes (0b11#2 ++ Cond.nc.code ++ 0b010#3) addr
  | .jc addr => threeBytes (0b11#2 ++ Cond.c.code ++ 0b010#3) addr
  | .jpo addr => threeBytes (0b11#2 ++ Cond.po.code ++ 0b010#3) addr
  | .jpe addr => threeBytes (0b11#2 ++ Cond.pe.code ++ 0b010#3) addr
  | .jp addr => threeBytes (0b11#2 ++ Cond.p.code ++ 0b010#3) addr
  | .jm addr => threeBytes (0b11#2 ++ Cond.m.code ++ 0b010#3) addr
  | .call addr => threeBytes 0b11001101 addr
  | .cnz addr => threeBytes (0b11#2 ++ Cond.nz.code ++ 0b100#3) addr
  | .cz addr => threeBytes (0b11#2 ++ Cond.z.code ++ 0b100#3) addr
  | .cnc addr => threeBytes (0b11#2 ++ Cond.nc.code ++ 0b100#3) addr
  | .cc addr => threeBytes (0b11#2 ++ Cond.c.code ++ 0b100#3) addr
  | .cpo addr => threeBytes (0b11#2 ++ Cond.po.code ++ 0b100#3) addr
  | .cpe addr => threeBytes (0b11#2 ++ Cond.pe.code ++ 0b100#3) addr
  | .cp addr => threeBytes (0b11#2 ++ Cond.p.code ++ 0b100#3) addr
  | .cm addr => threeBytes (0b11#2 ++ Cond.m.code ++ 0b100#3) addr
  | .ret => oneByte 0b11001001
  | .rnz => oneByte (0b11#2 ++ Cond.nz.code ++ 0b000#3)
  | .rz => oneByte (0b11#2 ++ Cond.z.code ++ 0b000#3)
  | .rnc => oneByte (0b11#2 ++ Cond.nc.code ++ 0b000#3)
  | .rc => oneByte (0b11#2 ++ Cond.c.code ++ 0b000#3)
  | .rpo => oneByte (0b11#2 ++ Cond.po.code ++ 0b000#3)
  | .rpe => oneByte (0b11#2 ++ Cond.pe.code ++ 0b000#3)
  | .rp => oneByte (0b11#2 ++ Cond.p.code ++ 0b000#3)
  | .rm => oneByte (0b11#2 ++ Cond.m.code ++ 0b000#3)
  | .rst n => oneByte (0b11#2 ++ n ++ 0b111#3)
  | .pchl => oneByte 0b11101001
  | .push rp => oneByte (0b11#2 ++ rp.code ++ 0b0101#4)
  | .pushPsw => oneByte 0b11110101
  | .pop rp => oneByte (0b11#2 ++ rp.code ++ 0b0001#4)
  | .popPsw => oneByte 0b11110001
  | .xthl => oneByte 0b11100011
  | .sphl => oneByte 0b11111001
  | .inPort port => twoBytes 0b11011011 port
  | .outPort port => twoBytes 0b11010011 port
  | .ei => oneByte 0b11111011
  | .di => oneByte 0b11110011
  | .hlt => oneByte 0b01110110
  | .nop => oneByte 0b00000000
  | .undefined op => oneByte op

end Sys2Proof
end

