-- ==== Sys2Proof/Config.lean ====
section
/-! DEFINITION. What the platform, and not the CPU, decides (spec 00_scope.md rule R4): the parameters, as plain data that
State carries and no step changes, and the free values (`draw` of rule R8), as constants without a body. -/

namespace Sys2Proof

/-- What answers at a memory address: `mem_kind` of 00_scope R4 with the memory-mapped device of 20_memory R52. -/
inductive MemKind where
  | ram
  | rom
  /-- No device answers: NONE of 20_memory R44. -/
  | empty
  /-- A device wired into the memory space (20_memory R52). -/
  | device
deriving DecidableEq, Repr

/-- The addresses `first` to `last`, both included, and what answers there. -/
structure Region where
  first : Word
  last : Word
  kind : MemKind
deriving DecidableEq, Repr

/-- `ANA_AC` of 00_scope R4: the rule for AC after ANA and ANI (43_logical R150, D12). -/
inductive AnaAC where
  | source
  /-- [PRESUMED by the spec: 93_implementation_defined G1] -/
  | silicon
deriving DecidableEq, Repr

/-- `UNDEF_OPCODE` of 00_scope R4: what the twelve undefined opcodes do (30_encoding R78, D1). -/
inductive UndefOpcode where
  | fault
  /-- [PRESUMED by the spec: 93_implementation_defined G2] -/
  | silicon
deriving DecidableEq, Repr

/-- The platform parameters of 00_scope R4 with the defaults the spec chooses: all memory RAM (D3), no hold agent (D9),
`ANA_AC = source` (D12), `UNDEF_OPCODE = Fault` (D1). An address of several regions belongs to the first; an address of
no region is RAM (log 3, log 27). -/
structure Platform where
  regions : List Region := []
  holdAgent : Bool := false
  anaAC : AnaAC := .source
  undefOpcode : UndefOpcode := .fault
deriving DecidableEq, Repr

/-- `io_in` of 00_scope R4: the byte an input port supplies at a time (20_memory R50). Free value, log 5. -/
opaque Config.ioIn : Byte → Nat → Byte

/-- The byte a memory-mapped device supplies at a time (20_memory R44, R52). Free value, log 5. -/
opaque Config.deviceRead : Word → Nat → Byte

/-- What the data bus holds when nothing drives it: a read of an empty address (20_memory R44) and an interrupt
acknowledge no device answers (93_implementation_defined U17). Free value, log 5. -/
opaque Config.floatingBus : Nat → Byte

/-- The four parts of 00_scope R1; they differ only in clock period (50_machine_cycles R238). -/
inductive Part where
  | i8080A | i8080A1 | i8080A2 | m8080A
deriving DecidableEq, Repr

end Sys2Proof
end

