-- ==== Sys2Proof/Machine/Memory.lean ====
section
/-! DEFINITION. The 65,536-byte memory as a sparse list of cells in one canonical form, and the population of the address
space (spec 20_memory.md rules R40, R44, R47, R48, R52). -/

namespace Sys2Proof.Machine

/-- Memory content: cells with strictly rising addresses below 65,536, none equal to what an unlisted address reads as
(`Memory.wf`). -/
abbrev Memory := List Host.Cell

/-- What a byte reads as that nothing has written since power-up. The spec gives RAM no power-up content (10_state R26,
93_implementation_defined U3). [DESIGN CHOICE: 00H, log 2; unsafe] -/
def Memory.unlisted : Byte := 0x00

/-- The content of one byte. -/
def Memory.read : Memory → Nat → Byte
  | [], _ => Memory.unlisted
  | (k, v) :: m, addr => if addr = k then v else Memory.read m addr

/-- One byte stored; storing what an unlisted address reads as removes the cell, so equal contents are equal lists. -/
def Memory.write : Memory → Nat → Byte → Memory
  | [], addr, v => if v = Memory.unlisted then [] else [(addr, v)]
  | (k, w) :: m, addr, v =>
    if addr < k then
      if v = Memory.unlisted then (k, w) :: m else (addr, v) :: (k, w) :: m
    else if addr = k then
      if v = Memory.unlisted then m else (addr, v) :: m
    else (k, w) :: Memory.write m addr v

/-- The cells have strictly rising addresses from `low` on, all below 65,536, and none holds `Memory.unlisted`. -/
def Memory.wfFrom (low : Nat) : Memory → Bool
  | [] => true
  | (k, v) :: m => decide (low ≤ k) && decide (k < 65536) && decide (v ≠ Memory.unlisted) && Memory.wfFrom (k + 1) m

/-- The canonical form of memory. -/
def Memory.wf (m : Memory) : Bool := Memory.wfFrom 0 m

/-- What answers at an address: the first region that holds it, else RAM (20_memory R47, R48, R52, log 27). -/
def kindIn : List Region → Word → MemKind
  | [], _ => .ram
  | r :: rs, addr => if r.first ≤ addr ∧ addr ≤ r.last then r.kind else kindIn rs addr

/-- `mem_kind` of 00_scope R4. -/
def memKind (p : Platform) (addr : Word) : MemKind := kindIn p.regions addr

end Sys2Proof.Machine
end

