-- ==== Sys2Proof/Machine/State.lean ====
section
/-! DEFINITION. The state of an Intel 8080 system as plain data (spec 10_state.md rule R10), the inputs of a step boundary
(60_exceptions.md rule R252), the reasons a step can stop (00_scope.md rule R8) and the state after RESET (10_state.md
rule R26). -/

namespace Sys2Proof.Machine

/-- The seven 8-bit registers (10_state R11). -/
structure Regs where
  b : Byte
  c : Byte
  d : Byte
  e : Byte
  h : Byte
  l : Byte
  a : Byte
deriving DecidableEq, Repr

/-- The five 1-bit condition flags (10_state R18). -/
structure Flags where
  z : Bool
  s : Bool
  p : Bool
  cy : Bool
  ac : Bool
deriving DecidableEq, Repr

/-- The ten types of machine cycle (50_machine_cycles R222). -/
inductive CycleKind where
  | fetch
  | memRead
  | memWrite
  | stackRead
  | stackWrite
  | input
  | output
  | intAck
  | haltAck
  | intAckHalt
deriving DecidableEq, Repr

/-- One machine cycle: its type, the 16 address lines and the byte transferred, none in a HALT cycle
(50_machine_cycles R222, 20_memory R55). -/
structure BusCycle where
  kind : CycleKind
  addr : Word
  data : Option Byte
deriving DecidableEq, Repr

/-- One memory access of the HOLD master while it owns the buses (60_exceptions R266). -/
inductive DmaOp where
  | read (addr : Word)
  | write (addr : Word) (v : Byte)
deriving DecidableEq, Repr

/-- What the environment supplies at one step boundary: `env` of 60_exceptions R252, with READY of 50_machine_cycles R232.
The defaults are every line low and READY high. -/
structure Env where
  /-- The level of RESET. -/
  reset : Bool := false
  /-- The level of HOLD. -/
  hold : Bool := false
  /-- What the HOLD master does with the buses if the hold is granted at this boundary. -/
  dma : List DmaOp := []
  /-- What the HOLD master does inside the instruction of this step: the k-th list follows its k-th machine cycle
  (60_exceptions R266, 20_memory R54, R58). -/
  cycleDma : List (List DmaOp) := []
  /-- The level of INT. -/
  int : Bool := false
  /-- The bytes the interrupting device drives in the interrupt-acknowledge cycles, first byte first; past the end of the
  list nothing drives the bus. -/
  intBytes : List Byte := []
  /-- READY: how many wait states TW it inserts in this step; none when READY never rises again. -/
  waits : Option Nat := some 0
deriving DecidableEq, Repr

/-- The state of the system (10_state R10). `trace`, `clock`, `inputs`, `platform` and `draws` are explained in log 3 to 7. -/
structure State where
  regs : Regs
  sp : Word
  pc : Word
  flags : Flags
  /-- The interrupt-enable flip-flop (10_state R21). -/
  inte : Bool
  /-- The CPU is in the halt state (10_state R22). -/
  halted : Bool
  /-- EI executed, enable not yet in force (10_state R23). -/
  eiPending : Bool
  /-- The hold-acknowledge flip-flop (10_state R25). -/
  hlda : Bool
  /-- The HOLD master's accesses still due inside the instruction in progress: the first list follows the coming machine
  cycle; empty between instructions (60_exceptions R266, log 8). -/
  holds : List (List DmaOp)
  /-- The content of memory (20_memory R40). -/
  mem : Memory
  /-- Every machine cycle performed, the newest first (50_machine_cycles R222, 20_memory R51, R54). -/
  trace : List BusCycle
  /-- The state counter `t` (50_machine_cycles R220). -/
  clock : Nat
  /-- How many free values the environment has supplied: the time argument of the next one (00_scope R8, log 5). -/
  draws : Nat
  /-- The inputs of the coming step boundaries; past the end every boundary is quiet (log 4). -/
  inputs : List Env
  /-- The platform parameters (00_scope R4, log 3). -/
  platform : Platform
deriving DecidableEq, Repr

/-- The model-level outcomes that stop a run (00_scope R8, 92_eei_decisions D2). None is an event of the 8080. Each carries
the state in which the machine stopped (log 12). -/
inductive Fault where
  /-- `Fault(UndefinedOpcode, op)`: one of the twelve undefined first bytes was executed with `UNDEF_OPCODE = Fault`
  (30_encoding R78, D1). Raised by `execUndefined`. Safe: the spec gives no effect. -/
  | undefinedOpcode (op : Byte) (stopped : State)
  /-- `Fault(BadInterruptInstruction, b1)`: the interrupting device supplied a multi-byte instruction other than CALL
  (60_exceptions R259, D15). Raised by `State.takeInterrupt`. Safe: the spec gives no effect. -/
  | badInterruptInstruction (b1 : Byte) (stopped : State)
  /-- `Stuck(halted)`: halted with INTE = 0 and neither RESET nor HOLD still to come (70_reset R292, log 11). Raised by
  `boundary`. Safe: the hardware stays there for ever. -/
  | stuckHalted (stopped : State)
  /-- `Stuck(wait)`: READY never rises (50_machine_cycles R232, D10). Raised by `boundary`. Safe: the hardware repeats TW for
  ever. -/
  | stuckWait (stopped : State)
deriving DecidableEq, Repr

/-- Why the model gives an instruction no meaning. No arm of `exec` uses it. -/
inductive Refusal where
  /-- The instruction has no meaning in the model yet. Raised by an arm of `exec` only. Safe: nothing is claimed. -/
  | notModelled (mnemonic : String)
deriving DecidableEq, Repr

/-- What an instruction's meaning answers. -/
abbrev Result := Host.Outcome State Fault Refusal

/-- The machine right after RESET (10_state R26, 70_reset R280, R282): PC, INTE, hlda, halted and ei_pending as RESET leaves
them. The registers, the flags and SP, which RESET does not set, hold 0 [DESIGN CHOICE: log 1; unsafe]; memory lists
nothing (log 2); the bus trace, the clock and the count of free values start empty and the environment is quiet with the
default platform (log 3 to 7). -/
def State.reset : State where
  regs := { b := 0, c := 0, d := 0, e := 0, h := 0, l := 0, a := 0 }
  sp := 0x0000
  pc := 0x0000
  flags := { z := false, s := false, p := false, cy := false, ac := false }
  inte := false
  halted := false
  eiPending := false
  hlda := false
  holds := []
  mem := []
  trace := []
  clock := 0
  draws := 0
  inputs := []
  platform := {}

end Sys2Proof.Machine
end

