-- ==== Sys2Proof/Machine/Flags.lean ====
section
/-! DEFINITION. Every flag computation of the spec: the standard rules (10_state.md rule R18), the arithmetic laws
(42_arithmetic.md rules R120, R121, R141), the Boolean operations (43_logical.md rule R150), the flag byte (10_state.md
rule R20) and the conditions (44_branch.md rule R180). -/

namespace Sys2Proof.Machine

/-- `parity8(v)`: true when `v` has an even number of 1 bits (00_scope R6, 10_state R18). -/
def parity8 (v : Byte) : Bool :=
  !(v.getLsbD 0 ^^ v.getLsbD 1 ^^ v.getLsbD 2 ^^ v.getLsbD 3 ^^ v.getLsbD 4 ^^ v.getLsbD 5 ^^ v.getLsbD 6 ^^ v.getLsbD 7)

/-- `setZSP(v)`: Z, S and P by the standard rules, CY and AC as they were (10_state R18). -/
def setZSP (v : Byte) (f : Flags) : Flags :=
  { f with z := decide (v = 0), s := v.getLsbD 7, p := parity8 v }

/-- The result of an 8-bit addition or subtraction with its carry (or borrow) and its auxiliary carry. -/
structure AluOut where
  r : Byte
  cy : Bool
  ac : Bool
deriving DecidableEq, Repr

/-- `zext_N` of one bit. -/
def bit (n : Nat) (b : Bool) : BitVec n := (BitVec.ofBool b).setWidth n

/-- `add8(a, b, cin)` (42_arithmetic R120): the 9-bit sum, and the 5-bit sum of the low nibbles. -/
def add8 (a b : Byte) (cin : Bool) : AluOut :=
  let s9 := a.setWidth 9 + b.setWidth 9 + bit 9 cin
  let s5 := (a.extractLsb' 0 4).setWidth 5 + (b.extractLsb' 0 4).setWidth 5 + bit 5 cin
  { r := s9.extractLsb' 0 8, cy := s9.getLsbD 8, ac := s5.getLsbD 4 }

/-- `sub8(a, b, bin)` (42_arithmetic R121): the addition of the complement; CY is the inverted carry (a borrow), AC is the
carry out of bit 3 of that addition, not inverted (the spec's decision D13, log 16). -/
def sub8 (a b : Byte) (bin : Bool) : AluOut :=
  let o := add8 a (~~~b) (!bin)
  { o with cy := !o.cy }

/-- `setflags_arith(r, cy, ac)` (42_arithmetic R120): all five flags. -/
def setflagsArith (o : AluOut) (f : Flags) : Flags :=
  { setZSP o.r f with cy := o.cy, ac := o.ac }

/-- The flags and the result of an increment by one: every flag but CY (42_arithmetic R134, R135). -/
def increment (v : Byte) (f : Flags) : Byte × Flags :=
  let o := add8 v 0x01 false
  (o.r, { setZSP o.r f with ac := o.ac })

/-- The flags and the result of a decrement by one: every flag but CY (42_arithmetic R136, R137). -/
def decrement (v : Byte) (f : Flags) : Byte × Flags :=
  let o := sub8 v 0x01 false
  (o.r, { setZSP o.r f with ac := o.ac })

/-- The three Boolean operations of the logical group (43_logical R150). -/
inductive LogicOp where
  | ana | xra | ora
deriving DecidableEq, Repr

/-- AND, exclusive OR and inclusive OR (43_logical R151 to R159). -/
def logicResult (op : LogicOp) (a b : Byte) : Byte :=
  match op with
  | .ana => a &&& b
  | .xra => a ^^^ b
  | .ora => a ||| b

/-- `logic_ac(op, a, b)` (43_logical R150): 0, but for AND on a platform with `ANA_AC = silicon` (log 17). -/
def logicAC (mode : AnaAC) (op : LogicOp) (a b : Byte) : Bool :=
  match op, mode with
  | .ana, .silicon => a.getLsbD 3 || b.getLsbD 3
  | _, _ => false

/-- `setflags_logic(v, op, a, b)` (43_logical R150): Z, S, P from the result, CY cleared, AC by `logic_ac`. -/
def setflagsLogic (mode : AnaAC) (op : LogicOp) (a b : Byte) (f : Flags) : Flags :=
  { setZSP (logicResult op a b) f with cy := false, ac := logicAC mode op a b }

/-- Step 1 of DAA: 6 is added where the low digit is above 9 or AC is set (42_arithmetic R141). -/
def daaLow (a : Byte) (f : Flags) : AluOut :=
  if (a.extractLsb' 0 4).toNat > 9 ∨ f.ac = true then add8 a 0x06 false else { r := a, cy := false, ac := false }

/-- DAA: step 1, then 60H added where the high digit is now above 9, or CY was set, or step 1 carried out of bit 7; CY is set
exactly when step 2 adds, AC is the carry out of bit 3 of step 1 (42_arithmetic R141, the spec's decision D14, log 18). -/
def decimalAdjust (a : Byte) (f : Flags) : Byte × Flags :=
  let o := daaLow a f
  if (o.r.extractLsb' 4 4).toNat > 9 ∨ f.cy = true ∨ o.cy = true then
    let r := (add8 o.r 0x60 false).r
    (r, { setZSP r f with cy := true, ac := o.ac })
  else (o.r, { setZSP o.r f with cy := false, ac := o.ac })

/-- `flagbyte()` = S : Z : 0 : AC : 0 : P : 1 : CY (10_state R20). -/
def flagByte (f : Flags) : Byte :=
  BitVec.ofBool f.s ++ BitVec.ofBool f.z ++ 0b0#1 ++ BitVec.ofBool f.ac ++ 0b0#1 ++ BitVec.ofBool f.p ++ 0b1#1 ++
    BitVec.ofBool f.cy

/-- The flags POP PSW loads: bits 7, 6, 4, 2, 0; bits 5, 3 and 1 are ignored (10_state R20, 45 R203). -/
def flagsOfByte (v : Byte) : Flags :=
  { z := v.getLsbD 6, s := v.getLsbD 7, p := v.getLsbD 2, cy := v.getLsbD 0, ac := v.getLsbD 4 }

/-- `cond(ccc)` (44_branch R180). -/
def condHolds (f : Flags) : Cond → Bool
  | .nz => !f.z
  | .z => f.z
  | .nc => !f.cy
  | .c => f.cy
  | .po => !f.p
  | .pe => f.p
  | .p => !f.s
  | .m => f.s

end Sys2Proof.Machine
end

