-- ==== Sys2Proof/Machine/Operands.lean ====
section
/-! DEFINITION. Reading and writing registers and register pairs (spec 10_state.md rules R11 to R14, R17), and the single-field
updates of the state. -/

namespace Sys2Proof.Machine

/-- `R[c]` as a read (00_scope R6, 10_state R12). -/
def Regs.get (g : Regs) : Reg → Byte
  | .b => g.b
  | .c => g.c
  | .d => g.d
  | .e => g.e
  | .h => g.h
  | .l => g.l
  | .a => g.a

/-- `R[c] <- v` (00_scope R6, 10_state R12). -/
def Regs.set (g : Regs) (r : Reg) (v : Byte) : Regs :=
  match r with
  | .b => { g with b := v }
  | .c => { g with c := v }
  | .d => { g with d := v }
  | .e => { g with e := v }
  | .h => { g with h := v }
  | .l => { g with l := v }
  | .a => { g with a := v }

/-- The content of a register. -/
def State.reg (s : State) (r : Reg) : Byte := s.regs.get r

/-- A register written. -/
def State.setReg (s : State) (r : Reg) (v : Byte) : State := { s with regs := s.regs.set r v }

/-- SP written. -/
def State.setSp (s : State) (v : Word) : State := { s with sp := v }

/-- PC written. -/
def State.setPc (s : State) (v : Word) : State := { s with pc := v }

/-- The five flags written. -/
def State.setFlags (s : State) (f : Flags) : State := { s with flags := f }

/-- INTE written. -/
def State.setInte (s : State) (v : Bool) : State := { s with inte := v }

/-- `halted` written. -/
def State.setHalted (s : State) (v : Bool) : State := { s with halted := v }

/-- `ei_pending` written. -/
def State.setEiPending (s : State) (v : Bool) : State := { s with eiPending := v }

/-- `hlda` written. -/
def State.setHlda (s : State) (v : Bool) : State := { s with hlda := v }

/-- The HOLD master's accesses due inside the instruction written. -/
def State.setHolds (s : State) (v : List (List DmaOp)) : State := { s with holds := v }

/-- The schedule of inputs written. -/
def State.setInputs (s : State) (v : List Env) : State := { s with inputs := v }

/-- The clock advanced by `n` states. -/
def State.tick (s : State) (n : Nat) : State := { s with clock := s.clock + n }

/-- `RP[c]` as a read: the first-named register is the high-order byte (10_state R13, R14). -/
def State.pair (s : State) : Pair → Word
  | .bc => joinBytes s.regs.b s.regs.c
  | .de => joinBytes s.regs.d s.regs.e
  | .hl => joinBytes s.regs.h s.regs.l
  | .sp => s.sp

/-- `RP[c] <- v`: both halves are written (10_state R13, R14). -/
def State.setPair (s : State) (rp : Pair) (v : Word) : State :=
  match rp with
  | .bc => (s.setReg .b (hi v)).setReg .c (lo v)
  | .de => (s.setReg .d (hi v)).setReg .e (lo v)
  | .hl => (s.setReg .h (hi v)).setReg .l (lo v)
  | .sp => s.setSp v

/-- A pair of PUSH or POP as a pair (10_state R14). -/
def stackPair : StackPair → Pair
  | .bc => .bc
  | .de => .de
  | .hl => .hl

/-- A pair of LDAX or STAX as a pair (10_state R14). -/
def indexPair : IndexPair → Pair
  | .bc => .bc
  | .de => .de

/-- The address of the memory operand M: the content of H and L (10_state R12, 20_memory R46). -/
def State.hl (s : State) : Word := s.pair .hl

end Sys2Proof.Machine
end

