-- ==== Sys2Proof/Machine/Ops.lean ====
section
/-! DEFINITION. The named operations the meanings share: the access primitives (spec 20_memory.md rules R44, R45, R50, R51), the
fetch of instruction bytes (30_encoding.md rule R70), the stack (45_stack_io_control.md rules R200 to R203), the accumulator
operations (42_arithmetic.md, 43_logical.md), taking an interrupt (60_exceptions.md rules R256 to R259) and returning from
one (rule R260), and the RESET event (70_reset_and_hazards.md rule R280). -/

namespace Sys2Proof.Machine

/-! ### The access primitives, and the HOLD master between them -/

/-- One more free value supplied by the environment. -/
def State.countDraw (s : State) : State := { s with draws := s.draws + 1 }

/-- One byte stored in memory, whatever answers at the address. -/
def State.store (s : State) (addr : Word) (v : Byte) : State := { s with mem := s.mem.write addr.toNat v }

/-- What answers at an address of this state's platform. -/
def State.kindAt (s : State) (addr : Word) : MemKind := memKind s.platform addr

/-- One access of the HOLD master: a write changes RAM only, a read changes nothing here (60_exceptions R266, log 8, log 25). -/
def State.dmaAccess (s : State) : DmaOp → State
  | .read _ => s
  | .write addr v => if s.kindAt addr = .ram then s.store addr v else s

/-- The accesses of the HOLD master, in order. -/
def State.dmaAccesses (s : State) : List DmaOp → State
  | [] => s
  | op :: ops => (s.dmaAccess op).dmaAccesses ops

/-- A hold between two machine cycles: the HOLD master makes the accesses due now, and the CPU resumes "with the machine
cycle following the last cycle that was executed" (60_exceptions R266, 20_memory R58). -/
def State.serveHold (s : State) : State :=
  match s.holds with
  | [] => s
  | ops :: rest => (s.setHolds rest).dmaAccesses ops

/-- The end of a machine cycle: it is added to the trace, and a hold that falls after it is served. -/
def State.record (s : State) (k : CycleKind) (addr : Word) (data : Option Byte) : State :=
  { s with trace := { kind := k, addr := addr, data := data } :: s.trace }.serveHold

/-- The byte a read of `addr` finds: the memory content, or a free value where a device or nothing answers (20_memory R44,
R52, log 5). -/
def State.readValue (s : State) (addr : Word) : Byte :=
  match s.kindAt addr with
  | .ram => s.mem.read addr.toNat
  | .rom => s.mem.read addr.toNat
  | .empty => Config.floatingBus s.draws
  | .device => Config.deviceRead addr s.draws

/-- The draws counted after a read of `addr`: a read of memory uses no free value. -/
def State.afterRead (s : State) (addr : Word) : State :=
  match s.kindAt addr with
  | .ram => s
  | .rom => s
  | .empty => s.countDraw
  | .device => s.countDraw

/-- `MemRead(addr, 1)`: one machine cycle of the type `k` (20_memory R44). -/
def State.memRead (s : State) (k : CycleKind) (addr : Word) : Byte × State :=
  (s.readValue addr, (s.afterRead addr).record k addr (some (s.readValue addr)))

/-- `MemWrite(addr, 1, v)`: one machine cycle of the type `k`; only RAM changes, and nothing tells the CPU that a write was
ineffective (20_memory R45). A byte sent to a device is in the trace (log 25). -/
def State.memWrite (s : State) (k : CycleKind) (addr : Word) (v : Byte) : State :=
  match s.kindAt addr with
  | .ram => (s.store addr v).record k addr (some v)
  | .rom => s.record k addr (some v)
  | .empty => s.record k addr (some v)
  | .device => s.record k addr (some v)

/-- The port number on both halves of the address bus (20_memory R50). -/
def portAddress (port : Byte) : Word := joinBytes port port

/-- `IORead(port)`: one INPUT machine cycle whose byte is a draw (20_memory R50, D5, log 5). -/
def State.ioRead (s : State) (port : Byte) : Byte × State :=
  (Config.ioIn port s.draws, s.countDraw.record .input (portAddress port) (some (Config.ioIn port s.draws)))

/-- `IOWrite(port, v)`: one OUTPUT machine cycle (20_memory R51). -/
def State.ioWrite (s : State) (port v : Byte) : State := s.record .output (portAddress port) (some v)

/-- The event a machine cycle adds to the output trace: (port, byte) for an OUTPUT cycle (20_memory R51). -/
def BusCycle.outputEvent (c : BusCycle) : Option (Byte × Byte) :=
  match c.kind, c.data with
  | .output, some v => some (lo c.addr, v)
  | _, _ => none

/-- The output trace of 20_memory R51, oldest event first. -/
def State.outputs (s : State) : List (Byte × Byte) := (s.trace.filterMap BusCycle.outputEvent).reverse

/-! ### Operands in memory -/

/-- The memory operand M as a source: one read at HL (20_memory R46). -/
def State.readM (s : State) : Byte × State := s.memRead .memRead s.hl

/-- The memory operand M as a destination: one write at HL (20_memory R46). -/
def State.writeM (s : State) (v : Byte) : State := s.memWrite .memWrite s.hl v

/-! ### Instruction fetch -/

/-- The byte at PC, read in a cycle of the type `k`, and PC stepped modulo 2^16 (10_state R15, R16). -/
def State.fetchByte (s : State) (k : CycleKind) : Byte × State :=
  let rd := s.memRead k s.pc
  (rd.1, rd.2.setPc (s.pc + 1))

/-- Bytes 2 and 3 of an instruction: `byte3 : byte2` (30_encoding R70, R72). -/
def State.fetchWord (s : State) : Word × State :=
  let b2 := s.fetchByte .memRead
  let b3 := b2.2.fetchByte .memRead
  (joinBytes b3.1 b2.1, b3.2)

/-- The instruction at PC, its bytes read in increasing address order, each exactly once, PC left at the byte after the last
(30_encoding R70). -/
def State.fetchInstr (s : State) : Instr × State :=
  let op := s.fetchByte .fetch
  match opLength op.1 with
  | 2 =>
    let b2 := op.2.fetchByte .memRead
    (decodeOp op.1 b2.1 0, b2.2)
  | 3 =>
    let w := op.2.fetchWord
    (decodeOp op.1 (lo w.1) (hi w.1), w.2)
  | _ => (decodeOp op.1 0 0, op.2)

/-! ### The stack -/

/-- A 16-bit item pushed: the high byte at SP - 1 first, then the low byte at SP - 2 (45 R200, 20_memory R54). -/
def State.pushWord (s : State) (w : Word) : State :=
  ((s.memWrite .stackWrite (s.sp - 1) (hi w)).memWrite .stackWrite (s.sp - 2) (lo w)).setSp (s.sp - 2)

/-- A 16-bit item popped: the low byte at SP first, then the high byte at SP + 1 (45 R202, 20_memory R54). -/
def State.popWord (s : State) : Word × State :=
  let low := s.memRead .stackRead s.sp
  let high := low.2.memRead .stackRead (s.sp + 1)
  (joinBytes high.1 low.1, high.2.setSp (s.sp + 2))

/-! ### Control transfer -/

/-- A call: PC is pushed and control goes to `target` (44_branch R183, R187). PC is `next` for a fetched instruction and the
unincremented PC for one an interrupting device supplied (60_exceptions R257). -/
def State.callTo (s : State) (target : Word) : State := (s.pushWord s.pc).setPc target

/-- A return: PC is popped (44_branch R185). It is also the return from an interrupt (60_exceptions R260). -/
def State.returnFromStack (s : State) : State := s.popWord.2.setPc s.popWord.1

/-- A jump taken when the condition holds (44_branch R182). -/
def State.jumpIf (s : State) (cond : Cond) (target : Word) : State :=
  if condHolds s.flags cond then s.setPc target else s

/-- A call taken when the condition holds (44_branch R184). -/
def State.callIf (s : State) (cond : Cond) (target : Word) : State :=
  if condHolds s.flags cond then s.callTo target else s

/-- A return taken when the condition holds (44_branch R186). -/
def State.returnIf (s : State) (cond : Cond) : State :=
  if condHolds s.flags cond then s.returnFromStack else s

/-- The target of RST n: `zext_16(NNN : 000)` = 8 n (44_branch R187). -/
def restartAddress (n : BitVec 3) : Word := 0#10 ++ n ++ 0b000#3

/-! ### Accumulator operations -/

/-- A <- A + v + cin with all five flags (42_arithmetic R120, R122 to R127). -/
def State.addToA (s : State) (v : Byte) (cin : Bool) : State :=
  let o := add8 (s.reg .a) v cin
  (s.setReg .a o.r).setFlags (setflagsArith o s.flags)

/-- The flags of A - v - bin, A unchanged (43_logical R160 to R162). -/
def State.compareA (s : State) (v : Byte) (bin : Bool) : State :=
  s.setFlags (setflagsArith (sub8 (s.reg .a) v bin) s.flags)

/-- A <- A - v - bin with all five flags (42_arithmetic R121, R128 to R133). -/
def State.subFromA (s : State) (v : Byte) (bin : Bool) : State :=
  let o := sub8 (s.reg .a) v bin
  (s.setReg .a o.r).setFlags (setflagsArith o s.flags)

/-- A <- A op v with the flags of a Boolean operation (43_logical R150 to R159). -/
def State.logicA (s : State) (op : LogicOp) (v : Byte) : State :=
  (s.setReg .a (logicResult op (s.reg .a) v)).setFlags (setflagsLogic s.platform.anaAC op (s.reg .a) v s.flags)

/-- A and CY written, the other flags kept: the rotates (43_logical R163 to R166). -/
def State.rotateA (s : State) (a : Byte) (cy : Bool) : State :=
  (s.setReg .a a).setFlags { s.flags with cy := cy }

/-! ### Undefined opcodes under UNDEF_OPCODE = silicon -/

/-- The undefined opcodes that 93_implementation_defined G2 reports as three-byte duplicates of JMP and CALL. -/
def threeByteDuplicates : List Byte := [0xCB, 0xDD, 0xED, 0xFD]

/-- What 93_implementation_defined G2 reports of the twelve undefined opcodes: CBH as JMP addr, D9H as RET, DDH, EDH, FDH as
CALL addr, the others as NOP. [PRESUMED by the spec: G2, log 13] -/
def State.undefinedDuplicate (s : State) (op : Byte) : State :=
  if op = 0xCB then s.fetchWord.2.setPc s.fetchWord.1
  else if op = 0xD9 then s.returnFromStack
  else if op = 0xDD ∨ op = 0xED ∨ op = 0xFD then s.fetchWord.2.callTo s.fetchWord.1
  else s

/-! ### Interrupts -/

/-- `int_latch`: INT AND INTE at the boundary (10_state R23, log 22). -/
def State.intLatch (s : State) (e : Env) : Bool := e.int && s.inte

/-- What acceptance changes: INTE, ei_pending and halted are cleared, nothing else (60_exceptions R256, R264). -/
def State.acknowledge (s : State) : State := ((s.setInte false).setEiPending false).setHalted false

/-- The byte of one interrupt-acknowledge cycle of the type `k`: PC is on the address lines and is not incremented, and the
byte comes from the device, or from the floating bus (60_exceptions R257, 93_implementation_defined U17, log 5). -/
def State.intByte (s : State) (k : CycleKind) (supplied : Option Byte) : Byte × State :=
  match supplied with
  | some b => (b, s.record k s.pc (some b))
  | none => (Config.floatingBus s.draws, s.countDraw.record k s.pc (some (Config.floatingBus s.draws)))

/-- Taking an interrupt (60_exceptions R256 to R259): the acknowledge, the byte the device supplies, and the instruction it
makes: a one-byte instruction, a CALL with two more bytes from the device (D15, log 15), or the fault of R259 for every
other multi-byte instruction (log 14). PC is not incremented for any byte. -/
def State.takeInterrupt (s : State) (bytes : List Byte) : Except Fault (Instr × State) :=
  let b1 := s.acknowledge.intByte (if s.halted then .intAckHalt else .intAck) bytes[0]?
  if b1.1 = 0xCD then
    let b2 := b1.2.intByte .intAck bytes[1]?
    let b3 := b2.2.intByte .intAck bytes[2]?
    .ok (.call (joinBytes b3.1 b2.1), b3.2)
  else if opLength b1.1 ≠ 1 ∨ (s.platform.undefOpcode = .silicon ∧ threeByteDuplicates.contains b1.1) then
    .error (.badInterruptInstruction b1.1 b1.2)
  else .ok (decodeOp b1.1 0 0, b1.2)

/-! ### RESET -/

/-- The RESET event: PC, INTE, hlda, halted and ei_pending cleared, everything else unchanged (70_reset R280). -/
def State.resetEvent (s : State) : State :=
  ((((s.setPc 0x0000).setInte false).setHlda false).setHalted false).setEiPending false

end Sys2Proof.Machine
end

