-- ==== Sys2Proof/Machine/Timing.lean ====
section
/-! DEFINITION. The timing of spec 50_machine_cycles.md: states, machine cycles and machine-cycle sequences of every instruction
(rule R236), the clock periods (rule R238), the status word (rule R224) and the bus commands of the 8228 (rule R225). No
meaning reads any of it (rule R240). -/

namespace Sys2Proof.Machine

/-- The states of a conditional call: 17 taken, 11 not (R236). -/
def callStates (taken : Bool) : Nat := if taken then 17 else 11

/-- The states of a conditional return: 11 taken, 5 not (R236). -/
def returnStates (taken : Bool) : Nat := if taken then 11 else 5

/-- The states of an undefined opcode under `UNDEF_OPCODE = silicon`: those of the instruction it duplicates
(93_implementation_defined G2, log 13). -/
def undefinedStates (op : Byte) : Nat :=
  if op = 0xCB then 10 else if op = 0xD9 then 10 else if op = 0xDD ∨ op = 0xED ∨ op = 0xFD then 17 else 4

/-- The states of an instruction with READY always high; `f` are the flags before it (R236). -/
def statesOf (i : Instr) (f : Flags) : Nat :=
  match i with
  | .movRR _ _ => 5
  | .movRM _ => 7
  | .movMR _ => 7
  | .mviR _ _ => 7
  | .mviM _ => 10
  | .lxi _ _ => 10
  | .lda _ => 13
  | .sta _ => 13
  | .lhld _ => 16
  | .shld _ => 16
  | .ldax _ => 7
  | .stax _ => 7
  | .xchg => 4
  | .addR _ => 4
  | .addM => 7
  | .adi _ => 7
  | .adcR _ => 4
  | .adcM => 7
  | .aci _ => 7
  | .subR _ => 4
  | .subM => 7
  | .sui _ => 7
  | .sbbR _ => 4
  | .sbbM => 7
  | .sbi _ => 7
  | .inrR _ => 5
  | .inrM => 10
  | .dcrR _ => 5
  | .dcrM => 10
  | .inx _ => 5
  | .dcx _ => 5
  | .dad _ => 10
  | .daa => 4
  | .anaR _ => 4
  | .anaM => 7
  | .ani _ => 7
  | .xraR _ => 4
  | .xraM => 7
  | .xri _ => 7
  | .oraR _ => 4
  | .oraM => 7
  | .ori _ => 7
  | .cmpR _ => 4
  | .cmpM => 7
  | .cpi _ => 7
  | .rlc => 4
  | .rrc => 4
  | .ral => 4
  | .rar => 4
  | .cma => 4
  | .cmc => 4
  | .stc => 4
  | .jmp _ => 10
  | .jnz _ => 10
  | .jz _ => 10
  | .jnc _ => 10
  | .jc _ => 10
  | .jpo _ => 10
  | .jpe _ => 10
  | .jp _ => 10
  | .jm _ => 10
  | .call _ => 17
  | .cnz _ => callStates (condHolds f .nz)
  | .cz _ => callStates (condHolds f .z)
  | .cnc _ => callStates (condHolds f .nc)
  | .cc _ => callStates (condHolds f .c)
  | .cpo _ => callStates (condHolds f .po)
  | .cpe _ => callStates (condHolds f .pe)
  | .cp _ => callStates (condHolds f .p)
  | .cm _ => callStates (condHolds f .m)
  | .ret => 10
  | .rnz => returnStates (condHolds f .nz)
  | .rz => returnStates (condHolds f .z)
  | .rnc => returnStates (condHolds f .nc)
  | .rc => returnStates (condHolds f .c)
  | .rpo => returnStates (condHolds f .po)
  | .rpe => returnStates (condHolds f .pe)
  | .rp => returnStates (condHolds f .p)
  | .rm => returnStates (condHolds f .m)
  | .rst _ => 11
  | .pchl => 5
  | .push _ => 11
  | .pushPsw => 11
  | .pop _ => 10
  | .popPsw => 10
  | .xthl => 18
  | .sphl => 5
  | .inPort _ => 10
  | .outPort _ => 10
  | .ei => 4
  | .di => 4
  | .hlt => 7
  | .nop => 4
  | .undefined op => undefinedStates op

/-- The machine cycles that fetch an instruction's bytes: FETCH, then a MEMORY READ for each further byte (R222, R236). -/
def fetchCycles (i : Instr) : List CycleKind := .fetch :: List.replicate ((encode i).length - 1) .memRead

/-- The two stack reads of a return. -/
def returnCycles (taken : Bool) : List CycleKind := if taken then [.stackRead, .stackRead] else []

/-- The two stack writes of a call. -/
def callCycles (taken : Bool) : List CycleKind := if taken then [.stackWrite, .stackWrite] else []

/-- The machine cycles of an undefined opcode's reported duplicate after its first byte (93_implementation_defined G2). -/
def undefinedCycles (op : Byte) : List CycleKind :=
  if op = 0xCB then [.memRead, .memRead]
  else if op = 0xD9 then [.stackRead, .stackRead]
  else if op = 0xDD ∨ op = 0xED ∨ op = 0xFD then [.memRead, .memRead, .stackWrite, .stackWrite]
  else []

/-- The machine cycles of an instruction after its bytes are fetched, in order; `f` are the flags before it (R236; the
internal cycles X of DAD make no bus access). -/
def dataCycles (i : Instr) (f : Flags) : List CycleKind :=
  match i with
  | .movRR _ _ => []
  | .movRM _ => [.memRead]
  | .movMR _ => [.memWrite]
  | .mviR _ _ => []
  | .mviM _ => [.memWrite]
  | .lxi _ _ => []
  | .lda _ => [.memRead]
  | .sta _ => [.memWrite]
  | .lhld _ => [.memRead, .memRead]
  | .shld _ => [.memWrite, .memWrite]
  | .ldax _ => [.memRead]
  | .stax _ => [.memWrite]
  | .xchg => []
  | .addR _ => []
  | .addM => [.memRead]
  | .adi _ => []
  | .adcR _ => []
  | .adcM => [.memRead]
  | .aci _ => []
  | .subR _ => []
  | .subM => [.memRead]
  | .sui _ => []
  | .sbbR _ => []
  | .sbbM => [.memRead]
  | .sbi _ => []
  | .inrR _ => []
  | .inrM => [.memRead, .memWrite]
  | .dcrR _ => []
  | .dcrM => [.memRead, .memWrite]
  | .inx _ => []
  | .dcx _ => []
  | .dad _ => []
  | .daa => []
  | .anaR _ => []
  | .anaM => [.memRead]
  | .ani _ => []
  | .xraR _ => []
  | .xraM => [.memRead]
  | .xri _ => []
  | .oraR _ => []
  | .oraM => [.memRead]
  | .ori _ => []
  | .cmpR _ => []
  | .cmpM => [.memRead]
  | .cpi _ => []
  | .rlc => []
  | .rrc => []
  | .ral => []
  | .rar => []
  | .cma => []
  | .cmc => []
  | .stc => []
  | .jmp _ => []
  | .jnz _ => []
  | .jz _ => []
  | .jnc _ => []
  | .jc _ => []
  | .jpo _ => []
  | .jpe _ => []
  | .jp _ => []
  | .jm _ => []
  | .call _ => callCycles true
  | .cnz _ => callCycles (condHolds f .nz)
  | .cz _ => callCycles (condHolds f .z)
  | .cnc _ => callCycles (condHolds f .nc)
  | .cc _ => callCycles (condHolds f .c)
  | .cpo _ => callCycles (condHolds f .po)
  | .cpe _ => callCycles (condHolds f .pe)
  | .cp _ => callCycles (condHolds f .p)
  | .cm _ => callCycles (condHolds f .m)
  | .ret => returnCycles true
  | .rnz => returnCycles (condHolds f .nz)
  | .rz => returnCycles (condHolds f .z)
  | .rnc => returnCycles (condHolds f .nc)
  | .rc => returnCycles (condHolds f .c)
  | .rpo => returnCycles (condHolds f .po)
  | .rpe => returnCycles (condHolds f .pe)
  | .rp => returnCycles (condHolds f .p)
  | .rm => returnCycles (condHolds f .m)
  | .rst _ => callCycles true
  | .pchl => []
  | .push _ => callCycles true
  | .pushPsw => callCycles true
  | .pop _ => returnCycles true
  | .popPsw => returnCycles true
  | .xthl => [.stackRead, .stackRead, .stackWrite, .stackWrite]
  | .sphl => []
  | .inPort _ => [.input]
  | .outPort _ => [.output]
  | .ei => []
  | .di => []
  | .hlt => [.haltAck]
  | .nop => []
  | .undefined op => undefinedCycles op

/-- The bus cycles of an instruction fetched from memory, in order: the "Sequence" column of R236 without the X cycles. -/
def sequenceOf (i : Instr) (f : Flags) : List CycleKind := fetchCycles i ++ dataCycles i f

/-- The "Cycles" column of R236: DAD has two cycles without bus access, and the halt-acknowledge cycle of HLT is not counted
(90_conflicts C4). -/
def cyclesOf (i : Instr) (f : Flags) : Nat :=
  match i with
  | .dad _ => 3
  | .hlt => 1
  | _ => (sequenceOf i f).length

/-! ### The states of each machine cycle (R221, R226) -/

/-- The states of M1, the cycle that fetches the first byte: T5 is present for the instructions of R226 only. An interrupt
acknowledge in its place has as many. CALL's reported duplicates among the undefined opcodes fetch as CALL does (log 13). -/
def fetchStates : Instr → Nat
  | .movRR _ _ | .inrR _ | .dcrR _ | .inx _ | .dcx _ | .sphl | .pchl | .push _ | .pushPsw | .rst _ | .call _
  | .cnz _ | .cz _ | .cnc _ | .cc _ | .cpo _ | .cpe _ | .cp _ | .cm _
  | .rnz | .rz | .rnc | .rc | .rpo | .rpe | .rp | .rm => 5
  | .movRM _ | .movMR _ | .mviR _ _ | .mviM _ | .lxi _ _ | .lda _ | .sta _ | .lhld _ | .shld _ | .ldax _ | .stax _ | .xchg
  | .addR _ | .addM | .adi _ | .adcR _ | .adcM | .aci _ | .subR _ | .subM | .sui _ | .sbbR _ | .sbbM | .sbi _
  | .inrM | .dcrM | .dad _ | .daa | .anaR _ | .anaM | .ani _ | .xraR _ | .xraM | .xri _ | .oraR _ | .oraM | .ori _
  | .cmpR _ | .cmpM | .cpi _ | .rlc | .rrc | .ral | .rar | .cma | .cmc | .stc
  | .jmp _ | .jnz _ | .jz _ | .jnc _ | .jc _ | .jpo _ | .jpe _ | .jp _ | .jm _ | .ret
  | .pop _ | .popPsw | .xthl | .inPort _ | .outPort _ | .ei | .di | .hlt | .nop => 4
  | .undefined op => if op = 0xDD ∨ op = 0xED ∨ op = 0xFD then 5 else 4

/-- The two cycles without bus access of DAD, the X cycles of R236 (R222). -/
def internalCycles (i : Instr) : Nat :=
  match i with
  | .dad _ => 2
  | _ => 0

/-- The states of the `n` machine cycles after M1: three each, but for the last cycle of XTHL, which has five (R221). -/
def laterStates (i : Instr) (n : Nat) : List Nat :=
  if i = .xthl then List.replicate (n - 1) 3 ++ [5] else List.replicate n 3

/-- The states of every machine cycle of an instruction with READY always high, M1 first; `f` are the flags before it (R221).
HLT has the halt-acknowledge cycle besides the one cycle that R236 counts (90_conflicts C4). -/
def cycleStates (i : Instr) (f : Flags) : List Nat :=
  fetchStates i :: laterStates i ((sequenceOf i f).length - 1 + internalCycles i)

/-- The named states of a machine cycle (R221). -/
inductive CycleState where
  | t1 | t2 | tw | t3 | t4 | t5
deriving DecidableEq, Repr

/-- The states a machine cycle of `active` states (three to five) goes through when READY inserts `waits` wait states: TW is
entered instead of T3 while READY is low (R221, R232). -/
def statesInCycle (active waits : Nat) : List CycleState :=
  [.t1, .t2] ++ List.replicate waits .tw ++ [CycleState.t3, .t4, .t5].take (active - 2)

/-- The minimum clock period of a part in nanoseconds (R238). -/
def minPeriodNs : Part → Nat
  | .i8080A => 480
  | .i8080A1 => 320
  | .i8080A2 => 380
  | .m8080A => 480

/-- The maximum clock period in nanoseconds, the same for every part (R238). -/
def maxPeriodNs (_ : Part) : Nat := 2000

/-- The time of an instruction in nanoseconds: `states x t_cy` plus `t_cy` per TW state (R238). -/
def instructionNs (tcy states waits : Nat) : Nat := states * tcy + waits * tcy

/-- The status word on D7..D0 in T1 of a machine cycle: MEMR, INP, M1, OUT, HLTA, STACK, WO, INTA (R224). -/
def statusWord : CycleKind → Byte
  | .fetch => 0xA2
  | .memRead => 0x82
  | .memWrite => 0x00
  | .stackRead => 0x86
  | .stackWrite => 0x04
  | .input => 0x42
  | .output => 0x10
  | .intAck => 0x23
  | .haltAck => 0x8A
  | .intAckHalt => 0x2B

/-- Whether DBIN is active in a machine cycle: the CPU reads the data bus (R225, 90_conflicts C7). -/
def dbinActive : CycleKind → Bool
  | .fetch => true
  | .memRead => true
  | .stackRead => true
  | .input => true
  | .intAck => true
  | .intAckHalt => true
  | .memWrite => false
  | .stackWrite => false
  | .output => false
  | .haltAck => false

/-- Whether WR is active in a machine cycle: a memory write or an output (R225). -/
def wrActive : CycleKind → Bool
  | .memWrite => true
  | .stackWrite => true
  | .output => true
  | .fetch => false
  | .memRead => false
  | .stackRead => false
  | .input => false
  | .intAck => false
  | .haltAck => false
  | .intAckHalt => false

/-- The five bus commands of the 8228 system controller (R225, 60_exceptions R263). -/
inductive BusCommand where
  | memr | memw | ior | iow | inta
deriving DecidableEq, Repr

/-- The command the 8228 derives from the status word with DBIN and WR; none in a halt-acknowledge cycle, in which no data
is transferred (R225, 60_exceptions R263, 20_memory R55). -/
def busCommand : CycleKind → Option BusCommand
  | .fetch => some .memr
  | .memRead => some .memr
  | .stackRead => some .memr
  | .memWrite => some .memw
  | .stackWrite => some .memw
  | .input => some .ior
  | .output => some .iow
  | .intAck => some .inta
  | .intAckHalt => some .inta
  | .haltAck => none

end Sys2Proof.Machine
end

