-- ==== Sys2Proof/Machine/Boundary.lean ====
section
/-! DEFINITION. What happens at a step boundary, in the order of spec 60_exceptions.md rule R252: RESET, HOLD, interrupt
acceptance, the halt state, or the fetch of an ordinary instruction; and what follows the instruction. -/

namespace Sys2Proof.Machine

/-- The outcome of a boundary: the step is over, the machine stops, or an instruction is to be executed. -/
inductive Turn where
  | done (s : State)
  | stop (f : Fault)
  /-- Execute `i` in `s`; `enable` says that an enable was pending (R252 part 5); `waits` wait states are inserted. -/
  | run (i : Instr) (s : State) (enable : Bool) (waits : Nat)
deriving DecidableEq, Repr

/-- The inputs of this boundary: the head of the schedule, or every line low and READY high (log 4). -/
def State.env (s : State) : Env := s.inputs.headD {}

/-- The state with this boundary's inputs used up. -/
def State.consumeEnv (s : State) : State := s.setInputs s.inputs.tail

/-- The hold is granted: HOLD is high and a hold agent is present (R252 part 2, log 8). -/
def State.holdGranted (s : State) (e : Env) : Bool := e.hold && s.platform.holdAgent

/-- The HOLD master's accesses of this boundary's inputs taken up for the instruction that begins (R266, log 8). -/
def State.takeHolds (s : State) (e : Env) : State := s.setHolds (if s.platform.holdAgent then e.cycleDma else [])

/-- A boundary at which the hold is granted: HLDA high and the agent's accesses; nothing else changes (R266). -/
def State.holdTurn (s : State) (e : Env) : State := (s.setHlda true).dmaAccesses e.dma

/-- Whether an input of a later boundary can still change the state of a CPU halted with INTE = 0: a RESET, or a hold, whose
agent may write memory (70_reset R292, 60_exceptions R264, log 11). -/
def State.wakesLater (s : State) : Bool := s.inputs.any fun e => e.reset || s.holdGranted e

/-- Part 3 of R252: an interrupt is accepted; the pending enable does not outlive it (R256). -/
def State.interruptTurn (s : State) (e : Env) : Turn :=
  match e.waits with
  | none => .stop (.stuckWait s)
  | some n =>
    match (s.takeHolds e).takeInterrupt e.intBytes with
    | .error f => .stop f
    | .ok (i, t) => .run i t false n

/-- Part 4 of R252: nothing happens while halted; with INTE = 0 and no way out left the machine is Stuck(halted). -/
def State.haltTurn (s : State) : Turn :=
  if s.inte || s.wakesLater then .done s else .stop (.stuckHalted s)

/-- Part 5 of R252: ei_pending is read and cleared, and one instruction is fetched. -/
def State.fetchTurn (s : State) (e : Env) : Turn :=
  match e.waits with
  | none => .stop (.stuckWait s)
  | some n =>
    let f := ((s.takeHolds e).setEiPending false).fetchInstr
    .run f.1 f.2 s.eiPending n

/-- A step boundary (R252). `hlda` falls at the first boundary at which no hold is granted (log 8). -/
def boundary (s : State) : Turn :=
  let e := s.env
  let s0 := s.consumeEnv
  if e.reset then .done s0.resetEvent
  else if s0.holdGranted e then .done (s0.holdTurn e)
  else
    let s1 := s0.setHlda false
    if s1.intLatch e then s1.interruptTurn e
    else if s1.halted then s1.haltTurn
    else s1.fetchTurn e

/-- Whether an instruction is DI. -/
def isDi : Instr → Bool
  | .di => true
  | _ => false

/-- After the instruction `i`, executed with flags `f` before it: a pending enable sets INTE unless `i` is DI (R252 part 5),
no hold is due any more, and the clock advances by its states and wait states (50_machine_cycles R220, R232, R236). -/
def complete (i : Instr) (f : Flags) (enable : Bool) (waits : Nat) (s : State) : State :=
  ((if enable && !isDi i then s.setInte true else s).setHolds []).tick (statesOf i f + waits)

/-- The three outcomes of an executed instruction carried on to the step. -/
def finish (i : Instr) (f : Flags) (enable : Bool) (waits : Nat) : Result → Result
  | .next s => .next (complete i f enable waits s)
  | .fault r => .fault r
  | .refused r => .refused r

/-! ### Placing an instruction at PC -/

/-- `p` with a readable byte of RAM at `addr`: unchanged where RAM or ROM is there already. -/
def readableAt (p : Platform) (addr : Word) : Platform :=
  match memKind p addr with
  | .ram => p
  | .rom => p
  | .empty => { p with regions := { first := addr, last := addr, kind := .ram } :: p.regions }
  | .device => { p with regions := { first := addr, last := addr, kind := .ram } :: p.regions }

/-- A schedule whose next boundary is quiet. -/
def quietNext : List Env → List Env
  | [] => []
  | e :: es => {} :: e :: es

/-- `s` with three bytes loaded at PC from outside the machine and the CPU about to fetch them: readable memory there, not
halted, and a quiet boundary next (log 24). -/
def State.placeBytes (s : State) (b1 b2 b3 : Byte) : State :=
  { s with
    mem := ((s.mem.write s.pc.toNat b1).write (s.pc + 1).toNat b2).write (s.pc + 2).toNat b3
    platform := readableAt (readableAt (readableAt s.platform s.pc) (s.pc + 1)) (s.pc + 2)
    halted := false
    inputs := quietNext s.inputs }

end Sys2Proof.Machine
end

