-- ==== Sys2Proof/Machine/Arithmetic.lean ====
section
/-! DEFINITION. The meanings of the arithmetic group (spec 42_arithmetic.md rules R122 to R141). -/

namespace Sys2Proof.Machine

/-- ADD r (R122): the old CY is not read. -/
def execAddR (src : Reg) (s : State) : Result := .next (s.addToA (s.reg src) false)

/-- ADD M (R123): one memory read, no write. -/
def execAddM (s : State) : Result := .next (s.readM.2.addToA s.readM.1 false)

/-- ADI data (R124). -/
def execAdi (data : Byte) (s : State) : Result := .next (s.addToA data false)

/-- ADC r (R125): with the old CY. -/
def execAdcR (src : Reg) (s : State) : Result := .next (s.addToA (s.reg src) s.flags.cy)

/-- ADC M (R126): one memory read, no write. -/
def execAdcM (s : State) : Result := .next (s.readM.2.addToA s.readM.1 s.flags.cy)

/-- ACI data (R127). -/
def execAci (data : Byte) (s : State) : Result := .next (s.addToA data s.flags.cy)

/-- SUB r (R128): the old CY is not read. -/
def execSubR (src : Reg) (s : State) : Result := .next (s.subFromA (s.reg src) false)

/-- SUB M (R129): one memory read, no write. -/
def execSubM (s : State) : Result := .next (s.readM.2.subFromA s.readM.1 false)

/-- SUI data (R130). -/
def execSui (data : Byte) (s : State) : Result := .next (s.subFromA data false)

/-- SBB r (R131): with the old CY as borrow. -/
def execSbbR (src : Reg) (s : State) : Result := .next (s.subFromA (s.reg src) s.flags.cy)

/-- SBB M (R132): one memory read, no write. -/
def execSbbM (s : State) : Result := .next (s.readM.2.subFromA s.readM.1 s.flags.cy)

/-- SBI data (R133). -/
def execSbi (data : Byte) (s : State) : Result := .next (s.subFromA data s.flags.cy)

/-- INR r (R134): CY is not written. -/
def execInrR (dst : Reg) (s : State) : Result :=
  let o := increment (s.reg dst) s.flags
  .next ((s.setReg dst o.1).setFlags o.2)

/-- INR M (R135): one read, then one write of the same address; CY is not written. -/
def execInrM (s : State) : Result :=
  let rd := s.readM
  let o := increment rd.1 s.flags
  .next ((rd.2.writeM o.1).setFlags o.2)

/-- DCR r (R136): CY is not written. -/
def execDcrR (dst : Reg) (s : State) : Result :=
  let o := decrement (s.reg dst) s.flags
  .next ((s.setReg dst o.1).setFlags o.2)

/-- DCR M (R137): one read, then one write of the same address; CY is not written. -/
def execDcrM (s : State) : Result :=
  let rd := s.readM
  let o := decrement rd.1 s.flags
  .next ((rd.2.writeM o.1).setFlags o.2)

/-- INX rp (R138): modulo 2^16, no flag. -/
def execInx (rp : Pair) (s : State) : Result := .next (s.setPair rp (s.pair rp + 1))

/-- DCX rp (R139): modulo 2^16, no flag. -/
def execDcx (rp : Pair) (s : State) : Result := .next (s.setPair rp (s.pair rp - 1))

/-- DAD rp (R140): the 17-bit sum; only CY is written. -/
def execDad (rp : Pair) (s : State) : Result :=
  let s17 := s.hl.setWidth 17 + (s.pair rp).setWidth 17
  .next ((s.setPair .hl (s17.extractLsb' 0 16)).setFlags { s.flags with cy := s17.getLsbD 16 })

/-- DAA (R141). -/
def execDaa (s : State) : Result :=
  let o := decimalAdjust (s.reg .a) s.flags
  .next ((s.setReg .a o.1).setFlags o.2)

end Sys2Proof.Machine
end

