-- ==== Sys2Proof/Machine/Branch.lean ====
section
/-! DEFINITION. The meanings of the branch group (spec 44_branch.md rules R181 to R188). On entry PC is the address after the
instruction (or the unincremented PC of an interrupt). No flag is written. -/

namespace Sys2Proof.Machine

/-- JMP addr (R181). -/
def execJmp (addr : Word) (s : State) : Result := .next (s.setPc addr)

/-- JNZ addr (R182): taken when Z = 0. -/
def execJnz (addr : Word) (s : State) : Result := .next (s.jumpIf .nz addr)

/-- JZ addr (R182): taken when Z = 1. -/
def execJz (addr : Word) (s : State) : Result := .next (s.jumpIf .z addr)

/-- JNC addr (R182): taken when CY = 0. -/
def execJnc (addr : Word) (s : State) : Result := .next (s.jumpIf .nc addr)

/-- JC addr (R182): taken when CY = 1. -/
def execJc (addr : Word) (s : State) : Result := .next (s.jumpIf .c addr)

/-- JPO addr (R182): taken when P = 0. -/
def execJpo (addr : Word) (s : State) : Result := .next (s.jumpIf .po addr)

/-- JPE addr (R182): taken when P = 1. -/
def execJpe (addr : Word) (s : State) : Result := .next (s.jumpIf .pe addr)

/-- JP addr (R182): taken when S = 0. -/
def execJp (addr : Word) (s : State) : Result := .next (s.jumpIf .p addr)

/-- JM addr (R182): taken when S = 1. -/
def execJm (addr : Word) (s : State) : Result := .next (s.jumpIf .m addr)

/-- CALL addr (R183). -/
def execCall (addr : Word) (s : State) : Result := .next (s.callTo addr)

/-- CNZ addr (R184): taken when Z = 0. -/
def execCnz (addr : Word) (s : State) : Result := .next (s.callIf .nz addr)

/-- CZ addr (R184): taken when Z = 1. -/
def execCz (addr : Word) (s : State) : Result := .next (s.callIf .z addr)

/-- CNC addr (R184): taken when CY = 0. -/
def execCnc (addr : Word) (s : State) : Result := .next (s.callIf .nc addr)

/-- CC addr (R184): taken when CY = 1. -/
def execCc (addr : Word) (s : State) : Result := .next (s.callIf .c addr)

/-- CPO addr (R184): taken when P = 0. -/
def execCpo (addr : Word) (s : State) : Result := .next (s.callIf .po addr)

/-- CPE addr (R184): taken when P = 1. -/
def execCpe (addr : Word) (s : State) : Result := .next (s.callIf .pe addr)

/-- CP addr (R184): taken when S = 0. -/
def execCp (addr : Word) (s : State) : Result := .next (s.callIf .p addr)

/-- CM addr (R184): taken when S = 1. -/
def execCm (addr : Word) (s : State) : Result := .next (s.callIf .m addr)

/-- RET (R185); also the return from an interrupt (60_exceptions R260). -/
def execRet (s : State) : Result := .next s.returnFromStack

/-- RNZ (R186): taken when Z = 0. -/
def execRnz (s : State) : Result := .next (s.returnIf .nz)

/-- RZ (R186): taken when Z = 1. -/
def execRz (s : State) : Result := .next (s.returnIf .z)

/-- RNC (R186): taken when CY = 0. -/
def execRnc (s : State) : Result := .next (s.returnIf .nc)

/-- RC (R186): taken when CY = 1. -/
def execRc (s : State) : Result := .next (s.returnIf .c)

/-- RPO (R186): taken when P = 0. -/
def execRpo (s : State) : Result := .next (s.returnIf .po)

/-- RPE (R186): taken when P = 1. -/
def execRpe (s : State) : Result := .next (s.returnIf .pe)

/-- RP (R186): taken when S = 0. -/
def execRp (s : State) : Result := .next (s.returnIf .p)

/-- RM (R186): taken when S = 1. -/
def execRm (s : State) : Result := .next (s.returnIf .m)

/-- RST n (R187). -/
def execRst (n : BitVec 3) (s : State) : Result := .next (s.callTo (restartAddress n))

/-- PCHL (R188). -/
def execPchl (s : State) : Result := .next (s.setPc s.hl)

end Sys2Proof.Machine
end

