-- ==== Sys2Proof/Machine/DataTransfer.lean ====
section
/-! DEFINITION. The meanings of the data transfer group (spec 41_data_transfer.md rules R100 to R112). No flag is written. -/

namespace Sys2Proof.Machine

/-- MOV r1,r2 (R100). -/
def execMovRR (dst src : Reg) (s : State) : Result := .next (s.setReg dst (s.reg src))

/-- MOV r,M (R101): the address is the old HL. -/
def execMovRM (dst : Reg) (s : State) : Result := .next (s.readM.2.setReg dst s.readM.1)

/-- MOV M,r (R102). -/
def execMovMR (src : Reg) (s : State) : Result := .next (s.writeM (s.reg src))

/-- MVI r,data (R103). -/
def execMviR (dst : Reg) (data : Byte) (s : State) : Result := .next (s.setReg dst data)

/-- MVI M,data (R104). -/
def execMviM (data : Byte) (s : State) : Result := .next (s.writeM data)

/-- LXI rp,data16 (R105). -/
def execLxi (rp : Pair) (data16 : Word) (s : State) : Result := .next (s.setPair rp data16)

/-- LDA addr (R106). -/
def execLda (addr : Word) (s : State) : Result :=
  let rd := s.memRead .memRead addr
  .next (rd.2.setReg .a rd.1)

/-- STA addr (R107). -/
def execSta (addr : Word) (s : State) : Result := .next (s.memWrite .memWrite addr (s.reg .a))

/-- LHLD addr (R108): L is read first; the second address wraps (10_state R16). -/
def execLhld (addr : Word) (s : State) : Result :=
  let rl := s.memRead .memRead addr
  let rh := rl.2.memRead .memRead (addr + 1)
  .next (rh.2.setPair .hl (joinBytes rh.1 rl.1))

/-- SHLD addr (R109): L is written first; the second address wraps (10_state R16). -/
def execShld (addr : Word) (s : State) : Result :=
    .next ((s.memWrite .memWrite addr (s.reg .l)).memWrite .memWrite (addr + 1) (s.reg .h))

/-- LDAX rp (R110). -/
def execLdax (rp : IndexPair) (s : State) : Result :=
  let rd := s.memRead .memRead (s.pair (indexPair rp))
  .next (rd.2.setReg .a rd.1)

/-- STAX rp (R111). -/
def execStax (rp : IndexPair) (s : State) : Result := .next (s.memWrite .memWrite (s.pair (indexPair rp)) (s.reg .a))

/-- XCHG (R112). -/
def execXchg (s : State) : Result := .next ((s.setPair .hl (s.pair .de)).setPair .de (s.pair .hl))

end Sys2Proof.Machine
end

