-- ==== Sys2Proof/Machine/Logical.lean ====
section
/-! DEFINITION. The meanings of the logical group (spec 43_logical.md rules R151 to R169). -/

namespace Sys2Proof.Machine

/-- ANA r (R151). -/
def execAnaR (src : Reg) (s : State) : Result := .next (s.logicA .ana (s.reg src))

/-- ANA M (R152): one memory read, no write. -/
def execAnaM (s : State) : Result := .next (s.readM.2.logicA .ana s.readM.1)

/-- ANI data (R153). -/
def execAni (data : Byte) (s : State) : Result := .next (s.logicA .ana data)

/-- XRA r (R154). -/
def execXraR (src : Reg) (s : State) : Result := .next (s.logicA .xra (s.reg src))

/-- XRA M (R155): one memory read, no write. -/
def execXraM (s : State) : Result := .next (s.readM.2.logicA .xra s.readM.1)

/-- XRI data (R156). -/
def execXri (data : Byte) (s : State) : Result := .next (s.logicA .xra data)

/-- ORA r (R157). -/
def execOraR (src : Reg) (s : State) : Result := .next (s.logicA .ora (s.reg src))

/-- ORA M (R158): one memory read, no write. -/
def execOraM (s : State) : Result := .next (s.readM.2.logicA .ora s.readM.1)

/-- ORI data (R159). -/
def execOri (data : Byte) (s : State) : Result := .next (s.logicA .ora data)

/-- CMP r (R160): A is not written. -/
def execCmpR (src : Reg) (s : State) : Result := .next (s.compareA (s.reg src) false)

/-- CMP M (R161): A is not written; one memory read, no write. -/
def execCmpM (s : State) : Result := .next (s.readM.2.compareA s.readM.1 false)

/-- CPI data (R162): A is not written. -/
def execCpi (data : Byte) (s : State) : Result := .next (s.compareA data false)

/-- RLC (R163): a[6:0] : a[7]. -/
def execRlc (s : State) : Result :=
  .next (s.rotateA ((s.reg .a).extractLsb' 0 7 ++ (s.reg .a).extractLsb' 7 1) ((s.reg .a).getLsbD 7))

/-- RRC (R164): a[0] : a[7:1]. -/
def execRrc (s : State) : Result :=
  .next (s.rotateA ((s.reg .a).extractLsb' 0 1 ++ (s.reg .a).extractLsb' 1 7) ((s.reg .a).getLsbD 0))

/-- RAL (R165): a[6:0] : CY. -/
def execRal (s : State) : Result :=
  .next (s.rotateA ((s.reg .a).extractLsb' 0 7 ++ BitVec.ofBool s.flags.cy) ((s.reg .a).getLsbD 7))

/-- RAR (R166): CY : a[7:1]. -/
def execRar (s : State) : Result :=
  .next (s.rotateA (BitVec.ofBool s.flags.cy ++ (s.reg .a).extractLsb' 1 7) ((s.reg .a).getLsbD 0))

/-- CMA (R167): no flag. -/
def execCma (s : State) : Result := .next (s.setReg .a (~~~(s.reg .a)))

/-- CMC (R168). -/
def execCmc (s : State) : Result := .next (s.setFlags { s.flags with cy := !s.flags.cy })

/-- STC (R169). -/
def execStc (s : State) : Result := .next (s.setFlags { s.flags with cy := true })

end Sys2Proof.Machine
end

