-- ==== Sys2Proof/Machine/StackIoControl.lean ====
section
/-! DEFINITION. The meanings of the stack, I/O and machine control group (spec 45_stack_io_control.md rules R200 to R213), and of
the twelve undefined opcodes (30_encoding.md rule R78). -/

namespace Sys2Proof.Machine

/-- PUSH rp (R200). -/
def execPush (rp : StackPair) (s : State) : Result := .next (s.pushWord (s.pair (stackPair rp)))

/-- PUSH PSW (R201): A at the higher address, the flag byte at the lower. -/
def execPushPsw (s : State) : Result := .next (s.pushWord (joinBytes (s.reg .a) (flagByte s.flags)))

/-- POP rp (R202). -/
def execPop (rp : StackPair) (s : State) : Result := .next (s.popWord.2.setPair (stackPair rp) s.popWord.1)

/-- POP PSW (R203): bits 5, 3 and 1 of the flag byte are ignored. -/
def execPopPsw (s : State) : Result :=
  .next ((s.popWord.2.setReg .a (hi s.popWord.1)).setFlags (flagsOfByte (lo s.popWord.1)))

/-- XTHL (R204): two reads, then H written at SP + 1, then L at SP (the spec's decision D6, log 20); SP is unchanged. -/
def execXthl (s : State) : Result :=
  let low := s.memRead .stackRead s.sp
  let high := low.2.memRead .stackRead (s.sp + 1)
  let written := (high.2.memWrite .stackWrite (s.sp + 1) (s.reg .h)).memWrite .stackWrite s.sp (s.reg .l)
  .next (written.setPair .hl (joinBytes high.1 low.1))

/-- SPHL (R205). -/
def execSphl (s : State) : Result := .next (s.setSp s.hl)

/-- IN port (R206): A takes what the port supplies, a free value (log 5). -/
def execInPort (port : Byte) (s : State) : Result :=
  let rd := s.ioRead port
  .next (rd.2.setReg .a rd.1)

/-- OUT port (R207). -/
def execOutPort (port : Byte) (s : State) : Result := .next (s.ioWrite port (s.reg .a))

/-- EI (R210): the enable is pending; the step after the next instruction sets INTE (60_exceptions R252, log 21). -/
def execEi (s : State) : Result := .next (s.setEiPending true)

/-- DI (R211). -/
def execDi (s : State) : Result := .next ((s.setInte false).setEiPending false)

/-- HLT (R212): the halt-acknowledge cycle shows PC and transfers no data (20_memory R55). -/
def execHlt (s : State) : Result := .next ((s.record .haltAck s.pc none).setHalted true)

/-- NOP (R213). -/
def execNop (s : State) : Result := .next s

/-- One of the twelve undefined first bytes (30_encoding R78): by the platform parameter `UNDEF_OPCODE` the model stops with
PC past the byte, or the reported duplicate runs (93_implementation_defined G2, log 13). -/
def execUndefined (op : Byte) (s : State) : Result :=
  match s.platform.undefOpcode with
  | .fault => .fault (.undefinedOpcode op s)
  | .silicon => .next (s.undefinedDuplicate op)

end Sys2Proof.Machine
end

