-- ==== Sys2Proof/Machine/Step.lean ====
section
/-! DEFINITION. One step of the machine (spec 60_exceptions.md rule R252), and an instruction placed where the next step fetches. -/

namespace Sys2Proof.Machine

/-- One step: the boundary decides; an instruction it hands on is executed and completed (60_exceptions R252). -/
def step (s : State) : Host.Outcome State Fault Refusal :=
  match boundary s with
  | .done t => .next t
  | .stop f => .fault f
  | .run i t enable waits => finish i t.flags enable waits (exec i t)

/-- `s` with the instruction whose bits are `w` (numbered as spec/opcode_table.json numbers them, the bits from `nbits` on
zero) stored at PC, so that the next step fetches and runs exactly it (log 24). -/
def State.withFetchWord (s : State) (nbits w : Nat) : State :=
  s.placeBytes (tableByte nbits w 0) (tableByte nbits w 1) (tableByte nbits w 2)

end Sys2Proof.Machine
end

