-- ==== Sys2Proof/Safety.lean ====
section
/-! DEFINITION. The terms in which statements about the machine are made: the invariant of every state between two steps, the kinds
of step boundary (spec 60_exceptions.md rule R252), which state an instruction writes (10_state.md rules R19, R27), where it
stores, and the results of arithmetic as natural numbers (42_arithmetic.md rules R120, R121). No meaning uses any of it. -/

namespace Sys2Proof.Machine

/-! ### Reading a state -/

/-- The content of the byte at an address. -/
def State.byteAt (s : State) (addr : Word) : Byte := s.mem.read addr.toNat

/-- RAM answers at the address. -/
def State.isRam (s : State) (addr : Word) : Prop := s.kindAt addr = .ram

/-- RAM or ROM answers at the address: a read finds the content of memory (20_memory R44). -/
def State.holdsByte (s : State) (addr : Word) : Prop := s.kindAt addr = .ram ∨ s.kindAt addr = .rom

/-- The five flags by name (10_state R18). -/
inductive FlagName where
  | z | s | p | cy | ac
deriving DecidableEq, Repr

/-- The value of a flag. -/
def Flags.get (f : Flags) : FlagName → Bool
  | .z => f.z
  | .s => f.s
  | .p => f.p
  | .cy => f.cy
  | .ac => f.ac

/-! ### The invariant and the safe run -/

/-- What holds of every state between two steps: memory is in its canonical form; HLDA is high only where a hold agent is
present (10_state R25); a halted CPU has no enable pending (10_state R22, R23); no hold inside an instruction is due. -/
structure State.Inv (s : State) : Prop where
  memory : s.mem.wf = true
  hold : s.hlda = true → s.platform.holdAgent = true
  halt : s.halted = true → s.eiPending = false
  between : s.holds = []

/-- The machine does not stop at this step. -/
def State.goesOn (s : State) : Prop := ∃ t, step s = .next t

/-- The states a run of at most `n` steps reaches, as long as no step stops. -/
def State.reaches (s : State) : Nat → State → Prop
  | 0, t => t = s
  | n + 1, t => ∃ u, s.reaches n u ∧ (t = u ∨ step u = .next t)

/-! ### The step boundary (60_exceptions R252) -/

/-- Neither RESET nor a granted HOLD takes this boundary. -/
def State.unheld (s : State) : Prop := s.env.reset = false ∧ s.holdGranted s.env = false

/-- The coming step fetches an ordinary instruction (R252 part 5) with `n` wait states. -/
def State.fetchesNext (s : State) (n : Nat) : Prop :=
  s.unheld ∧ s.intLatch s.env = false ∧ s.halted = false ∧ s.env.waits = some n

/-- The coming step accepts an interrupt (R252 part 3) with `n` wait states. -/
def State.acceptsNext (s : State) (n : Nat) : Prop :=
  s.unheld ∧ s.env.int = true ∧ s.inte = true ∧ s.env.waits = some n

/-- No hold falls inside the instruction of the coming step: no hold agent, or no access of it there. -/
def State.undisturbed (s : State) : Prop := s.platform.holdAgent = false ∨ s.env.cycleDma = []

/-- The bytes at PC are `bytes`, in memory that answers a read. -/
def State.atPc (s : State) (bytes : List Byte) : Prop :=
  ∀ k (h : k < bytes.length), s.holdsByte (s.pc + BitVec.ofNat 16 k) ∧ s.byteAt (s.pc + BitVec.ofNat 16 k) = bytes[k]

/-- The machine cycles that fetch `bytes` from `addr` on, oldest first: FETCH, then MEMORY READ (50_machine_cycles R222). -/
def fetchRecord (addr : Word) : List Byte → CycleKind → List BusCycle
  | [], _ => []
  | b :: bs, k => { kind := k, addr := addr, data := some b } :: fetchRecord (addr + 1) bs .memRead

/-- The state in which an instruction of the bytes `bytes`, fetched at an undisturbed boundary, is executed: the inputs used
up, HLDA low, ei_pending read and cleared, PC past the instruction, the fetch in the trace (R252, 30_encoding R70). -/
def State.fetched (s : State) (bytes : List Byte) : State :=
  { s with
    inputs := s.inputs.tail
    hlda := false
    holds := []
    eiPending := false
    pc := s.pc + BitVec.ofNat 16 bytes.length
    trace := (fetchRecord s.pc bytes .fetch).reverse ++ s.trace }

/-- The state in which an interrupt is acknowledged, up to the acknowledge cycles: INTE, ei_pending and halted cleared
(60_exceptions R256), PC as it was. -/
def State.interrupted (s : State) : State :=
  { s with
    inputs := s.inputs.tail
    hlda := false
    holds := []
    inte := false
    eiPending := false
    halted := false }

/-- The instruction that the coming step fetches, when it fetches one (R252 part 5). -/
def State.nextInstr (s : State) : Instr :=
  (((s.consumeEnv.setHlda false).takeHolds s.env).setEiPending false).fetchInstr.1

/-- The byte the HOLD master's accesses leave last at an address, if they write it. -/
def lastWrite : List DmaOp → Word → Option Byte
  | [], _ => none
  | .read _ :: ops, a => lastWrite ops a
  | .write addr v :: ops, a => (lastWrite ops a).or (if addr = a then some v else none)

/-! ### What an instruction can touch -/

/-- What an instruction can write: the registers and SP (10_state R27), the flags (R19, second column), the bytes of memory in
the order they are stored (20_memory R54); which flags it reads (R19, third column); whether it can transfer control. -/
structure Footprint where
  regs : List Reg := []
  sp : Bool := false
  flags : List FlagName := []
  reads : List FlagName := []
  stores : List Word := []
  branches : Bool := false

/-- The five flags. -/
def allFlags : List FlagName := [.z, .s, .p, .cy, .ac]

/-- The flag a condition examines (44_branch R180). -/
def condFlag : Cond → FlagName
  | .nz => .z
  | .z => .z
  | .nc => .cy
  | .c => .cy
  | .po => .p
  | .pe => .p
  | .p => .s
  | .m => .s

/-- A register pair written (10_state R13, R14). -/
def pairFootprint : Pair → Footprint
  | .bc => { regs := [.b, .c] }
  | .de => { regs := [.d, .e] }
  | .hl => { regs := [.h, .l] }
  | .sp => { sp := true }

/-- A call, taken or not: the two bytes below SP, the high byte first (44_branch R183, R184). -/
def stackFootprint (s : State) (taken : Bool) (reads : List FlagName) : Footprint :=
  { sp := taken, reads := reads, stores := if taken then [s.sp - 1, s.sp - 2] else [], branches := true }

/-- An undefined opcode, where the platform gives it the reported duplicate (93_implementation_defined G2). -/
def undefinedFootprint (s : State) (op : Byte) : Footprint :=
  if op = 0xCB then { branches := true }
  else if op = 0xD9 then { sp := true, branches := true }
  else if op = 0xDD ∨ op = 0xED ∨ op = 0xFD then stackFootprint s true []
  else {}

/-- The footprint of an instruction executed in `s`; every address is computed as the meaning computes it. -/
def footprint (i : Instr) (s : State) : Footprint :=
  match i with
  | .movRR dst _ => { regs := [dst] }
  | .movRM dst => { regs := [dst] }
  | .movMR _ => { stores := [s.hl] }
  | .mviR dst _ => { regs := [dst] }
  | .mviM _ => { stores := [s.hl] }
  | .lxi rp _ => pairFootprint rp
  | .lda _ => { regs := [.a] }
  | .sta addr => { stores := [addr] }
  | .lhld _ => { regs := [.h, .l] }
  | .shld addr => { stores := [addr, addr + 1] }
  | .ldax _ => { regs := [.a] }
  | .stax rp => { stores := [s.pair (indexPair rp)] }
  | .xchg => { regs := [.d, .e, .h, .l] }
  | .addR _ => { regs := [.a], flags := allFlags }
  | .addM => { regs := [.a], flags := allFlags }
  | .adi _ => { regs := [.a], flags := allFlags }
  | .adcR _ => { regs := [.a], flags := allFlags, reads := [.cy] }
  | .adcM => { regs := [.a], flags := allFlags, reads := [.cy] }
  | .aci _ => { regs := [.a], flags := allFlags, reads := [.cy] }
  | .subR _ => { regs := [.a], flags := allFlags }
  | .subM => { regs := [.a], flags := allFlags }
  | .sui _ => { regs := [.a], flags := allFlags }
  | .sbbR _ => { regs := [.a], flags := allFlags, reads := [.cy] }
  | .sbbM => { regs := [.a], flags := allFlags, reads := [.cy] }
  | .sbi _ => { regs := [.a], flags := allFlags, reads := [.cy] }
  | .inrR dst => { regs := [dst], flags := [.z, .s, .p, .ac] }
  | .inrM => { flags := [.z, .s, .p, .ac], stores := [s.hl] }
  | .dcrR dst => { regs := [dst], flags := [.z, .s, .p, .ac] }
  | .dcrM => { flags := [.z, .s, .p, .ac], stores := [s.hl] }
  | .inx rp => pairFootprint rp
  | .dcx rp => pairFootprint rp
  | .dad _ => { regs := [.h, .l], flags := [.cy] }
  | .daa => { regs := [.a], flags := allFlags, reads := [.cy, .ac] }
  | .anaR _ => { regs := [.a], flags := allFlags }
  | .anaM => { regs := [.a], flags := allFlags }
  | .ani _ => { regs := [.a], flags := allFlags }
  | .xraR _ => { regs := [.a], flags := allFlags }
  | .xraM => { regs := [.a], flags := allFlags }
  | .xri _ => { regs := [.a], flags := allFlags }
  | .oraR _ => { regs := [.a], flags := allFlags }
  | .oraM => { regs := [.a], flags := allFlags }
  | .ori _ => { regs := [.a], flags := allFlags }
  | .cmpR _ => { flags := allFlags }
  | .cmpM => { flags := allFlags }
  | .cpi _ => { flags := allFlags }
  | .rlc => { regs := [.a], flags := [.cy] }
  | .rrc => { regs := [.a], flags := [.cy] }
  | .ral => { regs := [.a], flags := [.cy], reads := [.cy] }
  | .rar => { regs := [.a], flags := [.cy], reads := [.cy] }
  | .cma => { regs := [.a] }
  | .cmc => { flags := [.cy], reads := [.cy] }
  | .stc => { flags := [.cy] }
  | .jmp _ => { branches := true }
  | .jnz _ => { reads := [condFlag .nz], branches := true }
  | .jz _ => { reads := [condFlag .z], branches := true }
  | .jnc _ => { reads := [condFlag .nc], branches := true }
  | .jc _ => { reads := [condFlag .c], branches := true }
  | .jpo _ => { reads := [condFlag .po], branches := true }
  | .jpe _ => { reads := [condFlag .pe], branches := true }
  | .jp _ => { reads := [condFlag .p], branches := true }
  | .jm _ => { reads := [condFlag .m], branches := true }
  | .call _ => stackFootprint s true []
  | .cnz _ => stackFootprint s (condHolds s.flags .nz) [condFlag .nz]
  | .cz _ => stackFootprint s (condHolds s.flags .z) [condFlag .z]
  | .cnc _ => stackFootprint s (condHolds s.flags .nc) [condFlag .nc]
  | .cc _ => stackFootprint s (condHolds s.flags .c) [condFlag .c]
  | .cpo _ => stackFootprint s (condHolds s.flags .po) [condFlag .po]
  | .cpe _ => stackFootprint s (condHolds s.flags .pe) [condFlag .pe]
  | .cp _ => stackFootprint s (condHolds s.flags .p) [condFlag .p]
  | .cm _ => stackFootprint s (condHolds s.flags .m) [condFlag .m]
  | .ret => { sp := true, branches := true }
  | .rnz => { reads := [condFlag .nz], sp := condHolds s.flags .nz, branches := true }
  | .rz => { reads := [condFlag .z], sp := condHolds s.flags .z, branches := true }
  | .rnc => { reads := [condFlag .nc], sp := condHolds s.flags .nc, branches := true }
  | .rc => { reads := [condFlag .c], sp := condHolds s.flags .c, branches := true }
  | .rpo => { reads := [condFlag .po], sp := condHolds s.flags .po, branches := true }
  | .rpe => { reads := [condFlag .pe], sp := condHolds s.flags .pe, branches := true }
  | .rp => { reads := [condFlag .p], sp := condHolds s.flags .p, branches := true }
  | .rm => { reads := [condFlag .m], sp := condHolds s.flags .m, branches := true }
  | .rst _ => stackFootprint s true []
  | .pchl => { branches := true }
  | .push _ => { sp := true, stores := [s.sp - 1, s.sp - 2] }
  | .pushPsw => { reads := allFlags, sp := true, stores := [s.sp - 1, s.sp - 2] }
  | .pop rp => { pairFootprint (stackPair rp) with sp := true }
  | .popPsw => { regs := [.a], flags := allFlags, sp := true }
  | .xthl => { regs := [.h, .l], stores := [s.sp + 1, s.sp] }
  | .sphl => { sp := true }
  | .inPort _ => { regs := [.a] }
  | .outPort _ => {}
  | .ei => {}
  | .di => {}
  | .hlt => {}
  | .nop => {}
  | .undefined op => undefinedFootprint s op

/-! ### Results as natural numbers -/

/-- 1 for a set bit, 0 for a reset one, as a number. -/
def bitValue (b : Bool) : Nat := if b then 1 else 0

/-- How many of the low `n` bits of a number are 1. -/
def onesBelow (v : Nat) : Nat → Nat
  | 0 => 0
  | n + 1 => onesBelow v n + v / 2 ^ n % 2

/-- Z, S and P are those of the result `v` (10_state R18): zero, bit 7, an even number of 1 bits. -/
structure ZspOf (v : Byte) (f : Flags) : Prop where
  z : f.z = decide (v.toNat = 0)
  s : f.s = decide (128 ≤ v.toNat)
  p : f.p = decide (onesBelow v.toNat 8 % 2 = 0)

/-- `r` and `f` are the result and the flags of `a + v + cin` (42_arithmetic R120). -/
structure IsSum (a v : Byte) (cin : Bool) (r : Byte) (f : Flags) : Prop where
  result : r.toNat = (a.toNat + v.toNat + bitValue cin) % 256
  cy : f.cy = decide (256 ≤ a.toNat + v.toNat + bitValue cin)
  ac : f.ac = decide (16 ≤ a.toNat % 16 + v.toNat % 16 + bitValue cin)
  zsp : ZspOf r f

/-- `r` and `f` are the result and the flags of `a - v - bin` (42_arithmetic R121); AC is set where no borrow from bit 4
occurs [the spec's decision D13, log 16]. -/
structure IsDifference (a v : Byte) (bin : Bool) (r : Byte) (f : Flags) : Prop where
  result : (r.toNat + v.toNat + bitValue bin) % 256 = a.toNat
  cy : f.cy = decide (a.toNat < v.toNat + bitValue bin)
  ac : f.ac = decide (v.toNat % 16 + bitValue bin ≤ a.toNat % 16)
  zsp : ZspOf r f

/-- `r` and `f` are the result and the flags of a Boolean operation on `a` and `v`: bit k of `r` is `op` of the two bits k, CY
is cleared, AC is `ac` (43_logical R150). -/
structure IsBoolean (op : Bool → Bool → Bool) (ac : Bool) (a v r : Byte) (f : Flags) : Prop where
  result : ∀ k, k < 8 → r.getLsbD k = op (a.getLsbD k) (v.getLsbD k)
  cy : f.cy = false
  ac : f.ac = ac
  zsp : ZspOf r f

/-! ### What an instruction did -/

/-- The bytes, the machine cycles and the states of an instruction whose timing does not depend on the flags (30_encoding R77,
50_machine_cycles R236). -/
def hasFormat (i : Instr) (bytes : List Byte) (cycles states : Nat) : Prop :=
  encode i = bytes ∧ ∀ f, cyclesOf i f = cycles ∧ statesOf i f = states

/-- The timing of a conditional call or return: not taken and taken (50_machine_cycles R236). -/
def hasConditionalTiming (i : Instr) (cond : Cond) (cycles states cyclesTaken statesTaken : Nat) : Prop :=
  ∀ f, cyclesOf i f = (if condHolds f cond then cyclesTaken else cycles) ∧
    statesOf i f = (if condHolds f cond then statesTaken else states)

/-- The state after one read machine cycle that nothing disturbs: the cycle in the trace, a free value counted where neither
RAM nor ROM answers (20_memory R44). -/
def State.readCycle (s : State) (k : CycleKind) (addr : Word) : State :=
  { s with
    trace := { kind := k, addr := addr, data := some (s.readValue addr) } :: s.trace
    draws := (s.afterRead addr).draws }

/-- `m` is the memory of `s` after the bytes of `cells` were stored, each at its own address: RAM takes them, any other kind of
address keeps its content, and so does every byte outside `cells` (20_memory R45). -/
structure StoresAt (s : State) (cells : List (Word × Byte)) (m : Memory) : Prop where
  stored : s.mem.wf = true → ∀ a v, (a, v) ∈ cells → s.isRam a → m.read a.toNat = v
  lost : ∀ a, ¬ s.isRam a → m.read a.toNat = s.byteAt a
  other : ∀ a, (∀ v, (a, v) ∉ cells) → m.read a.toNat = s.byteAt a
  canonical : s.mem.wf = true → m.wf = true

/-- `i` loads register `dst` from memory at `addr` in one read and changes nothing else. -/
def LoadsByte (i : Instr) (s : State) (addr : Word) (dst : Reg) : Prop :=
  ∃ g, exec i s = .next { s.readCycle .memRead addr with regs := g } ∧
    ∀ q, g.get q = if q = dst then s.readValue addr else s.regs.get q

/-- `i` stores `v` in memory at `addr` in one write and changes nothing else. -/
def StoresByte (i : Instr) (s : State) (addr : Word) (v : Byte) : Prop :=
  ∃ m, exec i s = .next { s with mem := m, trace := { kind := .memWrite, addr := addr, data := some v } :: s.trace } ∧
    StoresAt s [(addr, v)] m

/-- `i` leaves the state `u` but for A and the flags, which satisfy `P`; the other registers are those of `s`. -/
def Accumulates (i : Instr) (s u : State) (P : Byte → Flags → Prop) : Prop :=
  ∃ g f, exec i s = .next { u with regs := g, flags := f } ∧ P g.a f ∧ ∀ q, q ≠ .a → g.get q = s.regs.get q

/-- `i` pushes `w`, goes to `target` and changes nothing else (44_branch R183, 45 R200). -/
def PushesAndGoes (i : Instr) (s : State) (w target : Word) : Prop :=
  ∃ m, exec i s = .next { s with
      sp := s.sp - 2
      pc := target
      mem := m
      trace := { kind := .stackWrite, addr := s.sp - 2, data := some (lo w) } ::
        { kind := .stackWrite, addr := s.sp - 1, data := some (hi w) } :: s.trace } ∧
    StoresAt s [(s.sp - 1, hi w), (s.sp - 2, lo w)] m

/-- The low byte a pop reads, the high byte it reads after it, and the state after both reads (45 R202). -/
def State.popLow (s : State) : Byte := s.readValue s.sp

/-- The high byte of a pop, read after the low byte. -/
def State.popHigh (s : State) : Byte := (s.readCycle .stackRead s.sp).readValue (s.sp + 1)

/-- The state after the two reads of a pop, SP not yet changed. -/
def State.popReads (s : State) : State := (s.readCycle .stackRead s.sp).readCycle .stackRead (s.sp + 1)

/-- `i` pops the return address into PC and changes nothing else (44_branch R185). -/
def Returns (i : Instr) (s : State) : Prop :=
  exec i s = .next { s.popReads with sp := s.sp + 2, pc := joinBytes s.popHigh s.popLow }

/-- The number a byte of two decimal digits stands for (42_arithmetic R141). -/
def bcdValue (v : Byte) : Nat := v.toNat / 16 * 10 + v.toNat % 16

/-- Both digits of the byte are decimal. -/
def isBcd (v : Byte) : Prop := v.toNat / 16 ≤ 9 ∧ v.toNat % 16 ≤ 9

end Sys2Proof.Machine
end

