-- ==== Sys2Proof/Certificates/Slice0/Obligations.lean ====
section
/-! DEFINITION. The statements about the machine that are to be proved, from the numbered rules of spec/. A clause that rests on the
model's or the spec's own choice says so and names the log entry. -/

open Sys2Proof Sys2Proof.Machine

/-! ### Encoding -/

/-- Decoding the bytes of a well-formed instruction gives it back, with the bytes after it (30_encoding R71 to R77). -/
def Obligations.DecodeEncodeRoundTrip : Prop :=
  ∀ (i : Instr) (rest : List Byte), i.wf = true → decode (encode i ++ rest) = .ok (i, rest)

/-- Whatever decodes is well formed, and its encoding is the bytes it was read from: every sequence of bytes has at most one
meaning and no bit of it is dropped (30_encoding R76, R77). -/
def Obligations.DecodedBytesEncodeBack : Prop :=
  ∀ (bytes : List Byte) (i : Instr) (rest : List Byte),
    decode bytes = .ok (i, rest) → i.wf = true ∧ encode i ++ rest = bytes

/-- The first byte alone fixes the length of a defined instruction: three, two or one byte (30_encoding R74). -/
def Obligations.LengthFromFirstByte : Prop :=
  ∀ op : Byte, undefinedOpcodes.contains op = false →
    opLength op =
      if op ∈ [0x01, 0x11, 0x21, 0x31, 0x22, 0x2A, 0x32, 0x3A, 0xC3, 0xC2, 0xCA, 0xD2, 0xDA, 0xE2, 0xEA, 0xF2, 0xFA,
          0xCD, 0xC4, 0xCC, 0xD4, 0xDC, 0xE4, 0xEC, 0xF4, 0xFC] then 3
      else if op ∈ [0x06, 0x0E, 0x16, 0x1E, 0x26, 0x2E, 0x36, 0x3E, 0xC6, 0xCE, 0xD6, 0xDE, 0xE6, 0xEE, 0xF6, 0xFE,
          0xD3, 0xDB] then 2
      else 1

/-- Exactly the twelve first bytes of 30_encoding R78 decode to an undefined opcode, whatever follows them. -/
def Obligations.UndefinedOpcodesAreTwelve : Prop :=
  ∀ op b2 b3 x : Byte, decodeOp op b2 b3 = .undefined x ↔
    x = op ∧ op ∈ [0x08, 0x10, 0x18, 0x20, 0x28, 0x30, 0x38, 0xCB, 0xD9, 0xDD, 0xED, 0xFD]

/-- Words written out from the bit patterns of 30_encoding R77 decode to the instructions they stand for. -/
def Obligations.DecodedWords : Prop :=
  decode [0b01000001] = .ok (.movRR .b .c, []) ∧
  decode [0b00100001, 0x34, 0x12] = .ok (.lxi .hl 0x1234, []) ∧
  decode [0b10011010] = .ok (.sbbR .d, []) ∧
  decode [0b00111001] = .ok (.dad .sp, []) ∧
  decode [0b11101110, 0x81] = .ok (.xri 0x81, []) ∧
  decode [0b11101010, 0x00, 0x3E] = .ok (.jpe 0x3E00, []) ∧
  decode [0b11010111] = .ok (.rst 2, []) ∧
  decode [0b11110101] = .ok (.pushPsw, []) ∧
  decode [0b11011011, 0x01] = .ok (.inPort 0x01, [])

/-! ### The step -/

/-- A step at which an ordinary instruction is fetched executes the instruction whose bytes stand at PC, in the state after
the fetch (60_exceptions R252 part 5, 30_encoding R70). After it INTE is set where an enable was pending, unless the instruction
is DI (the spec's decision D8, log 21); holds left over are dropped (the model's choice, log 8); the clock advances by the
instruction's states and one count of wait states for the whole step (log 7, log 10). -/
def Obligations.StepRunsDecodedInstruction : Prop :=
  (∀ (s : State) (i : Instr) (n : Nat),
    i.wf = true → s.fetchesNext n → s.undisturbed → s.atPc (encode i) →
      step s = finish i s.flags s.eiPending n (exec i (s.fetched (encode i)))) ∧
  (∀ (i : Instr) (f : Flags) (enable : Bool) (n : Nat) (u : State),
    finish i f enable n (.next u) =
      .next { u with
        inte := (enable && decide (i ≠ .di)) || u.inte
        holds := []
        clock := u.clock + (statesOf i f + n) }) ∧
  (∀ (i : Instr) (f : Flags) (enable : Bool) (n : Nat) (r : Fault), finish i f enable n (.fault r) = .fault r)

/-- The instruction that `withFetchWord` places is the one the very next step executes (log 24). -/
def Obligations.PlacedInstructionRunsNext : Prop :=
  ∀ (s : State) (nbits w : Nat) (i : Instr), s.mem.wf = true → decodeTableWord nbits w = some i →
    step (s.withFetchWord nbits w) =
      finish i s.flags s.eiPending 0 (exec i ((s.withFetchWord nbits w).fetched (encode i)))

/-- RESET clears PC, INTE, hlda, halted and ei_pending and changes nothing else (70_reset R280; that it clears ei_pending is
the spec's decision D8, log 9, and the input schedule is the model's, log 4). -/
def Obligations.ResetEventClears : Prop :=
  ∀ s : State, s.env.reset = true →
    step s = .next { s with
      pc := 0x0000, inte := false, hlda := false, halted := false, eiPending := false, inputs := s.inputs.tail }

/-- The state right after the first RESET has PC, INTE, hlda and halted zero (10_state R26, 70_reset R282); that ei_pending is zero
too is the spec's decision D8 (log 9); all memory is RAM with no hold agent, the defaults of 00_scope R4 (decisions D3, D9,
log 3). -/
def Obligations.ResetState : Prop :=
  State.reset.pc = 0x0000 ∧ State.reset.inte = false ∧ State.reset.hlda = false ∧ State.reset.halted = false ∧
  State.reset.eiPending = false ∧ (∀ a, State.reset.isRam a) ∧ State.reset.platform.holdAgent = false

/-- At a boundary with a granted HOLD the CPU does nothing: HLDA is high and only memory changes, where the HOLD master
writes RAM (60_exceptions R252 part 2, R266; log 8). -/
def Obligations.HoldSuspendsCpu : Prop :=
  ∀ s : State, s.env.reset = false → s.env.hold = true → s.platform.holdAgent = true →
    ∃ m, step s = .next { s with inputs := s.inputs.tail, hlda := true, mem := m } ∧
      (s.mem.wf = true → ∀ a : Word,
        m.read a.toNat = if s.kindAt a = .ram then (lastWrite s.env.dma a).getD (s.byteAt a) else s.byteAt a)

/-- The entry sequence of an interrupt whose device supplies RST k: INTE, ei_pending and halted cleared, the unincremented PC
pushed high byte first, control to 8 k, 11 states (60_exceptions R256, R257, R258; clearing ei_pending is decision D8, log 21; one wait count per step, log 10; a
push outside RAM is lost by decision D3, log 25). -/
def Obligations.InterruptRestartEntry : Prop :=
  ∀ (s : State) (n : Nat) (k : BitVec 3) (bytes : List Byte),
    s.acceptsNext n → s.undisturbed → s.env.intBytes = (0b11#2 ++ k ++ 0b111#3) :: bytes →
      ∃ m, step s = .next { s.interrupted with
          sp := s.sp - 2
          pc := BitVec.ofNat 16 (8 * k.toNat)
          mem := m
          trace := { kind := .stackWrite, addr := s.sp - 2, data := some (lo s.pc) } ::
            { kind := .stackWrite, addr := s.sp - 1, data := some (hi s.pc) } ::
            { kind := if s.halted = true then .intAckHalt else .intAck, addr := s.pc,
              data := some (0b11#2 ++ k ++ 0b111#3) } :: s.trace
          clock := s.clock + (11 + n) } ∧
        StoresAt s [(s.sp - 1, hi s.pc), (s.sp - 2, lo s.pc)] m

/-- The entry sequence of an interrupt whose device supplies a CALL with its three bytes: as for RST, with the target from the
device and 17 states (60_exceptions R258; PC not incremented for any byte is decision D15, G3, log 15; the other decisions are
those of the RST entry). -/
def Obligations.InterruptCallEntry : Prop :=
  ∀ (s : State) (n : Nat) (b2 b3 : Byte) (bytes : List Byte),
    s.acceptsNext n → s.undisturbed → s.env.intBytes = 0xCD :: b2 :: b3 :: bytes →
      ∃ m, step s = .next { s.interrupted with
          sp := s.sp - 2
          pc := joinBytes b3 b2
          mem := m
          trace := { kind := .stackWrite, addr := s.sp - 2, data := some (lo s.pc) } ::
            { kind := .stackWrite, addr := s.sp - 1, data := some (hi s.pc) } ::
            { kind := .intAck, addr := s.pc, data := some b3 } ::
            { kind := .intAck, addr := s.pc, data := some b2 } ::
            { kind := if s.halted = true then .intAckHalt else .intAck, addr := s.pc, data := some 0xCD } :: s.trace
          clock := s.clock + (17 + n) } ∧
        StoresAt s [(s.sp - 1, hi s.pc), (s.sp - 2, lo s.pc)] m

/-- Any defined one-byte instruction a device supplies is executed by its own rule, with PC not incremented
(60_exceptions R258; decision D15, log 14). -/
def Obligations.InterruptRunsOneByteInstruction : Prop :=
  ∀ (s : State) (n : Nat) (b : Byte) (bytes : List Byte),
    s.acceptsNext n → s.undisturbed → s.env.intBytes = b :: bytes → opLength b = 1 → b ∉ undefinedOpcodes →
      step s = finish (decodeOp b 0 0) s.flags false n (exec (decodeOp b 0 0) { s.interrupted with
        trace := { kind := if s.halted = true then .intAckHalt else .intAck, addr := s.pc, data := some b } :: s.trace })

/-- A multi-byte instruction other than CALL from a device stops the model as BadInterruptInstruction, an undefined opcode as
UndefinedOpcode under the default platform, each with nothing changed but the acknowledge (60_exceptions R258, R259;
decisions D1, D15, log 13, log 14). -/
def Obligations.InterruptStopsOnOtherInstructions : Prop :=
  ∀ (s : State) (n : Nat) (b : Byte) (bytes : List Byte),
    s.acceptsNext n → s.undisturbed → s.env.intBytes = b :: bytes →
      (opLength b ≠ 1 → b ≠ 0xCD →
        step s = .fault (.badInterruptInstruction b { s.interrupted with
          trace := { kind := if s.halted = true then .intAckHalt else .intAck, addr := s.pc, data := some b } :: s.trace })) ∧
      (b ∈ undefinedOpcodes → s.platform.undefOpcode = .fault →
        step s = .fault (.undefinedOpcode b { s.interrupted with
          trace := { kind := if s.halted = true then .intAckHalt else .intAck, addr := s.pc, data := some b } :: s.trace }))

/-- While INTE is 0 the INT line and whatever the device drives change nothing: the request is ignored and not remembered
(60_exceptions R254). -/
def Obligations.RequestIgnoredWhileDisabled : Prop :=
  ∀ (s : State) (e : Env) (es : List Env), s.inputs = e :: es → s.inte = false →
    step s = step { s with inputs := { e with int := false, intBytes := [] } :: es }

/-- While the CPU is halted and nothing takes the boundary, nothing changes; with INTE = 0 and neither a RESET nor a granted
HOLD still to come, the machine is stuck (60_exceptions R264, 70_reset R292; when the model says so is log 11). -/
def Obligations.HaltStateIdles : Prop :=
  ∀ s : State, s.unheld → s.intLatch s.env = false → s.halted = true →
    ((s.inte = true ∨ ∃ e ∈ s.inputs.tail, e.reset = true ∨ (e.hold = true ∧ s.platform.holdAgent = true)) →
      step s = .next { s with inputs := s.inputs.tail, hlda := false }) ∧
    ((s.inte = false ∧ ∀ e ∈ s.inputs.tail, e.reset = false ∧ (e.hold = false ∨ s.platform.holdAgent = false)) →
      step s = .fault (.stuckHalted { s with inputs := s.inputs.tail, hlda := false }))

/-- The halt state ends only by RESET or by an interrupt accepted with INTE set (45 R212, 60_exceptions R264). -/
def Obligations.HaltEndsByResetOrInterrupt : Prop :=
  ∀ s t : State, s.halted = true → step s = .next t → t.halted = false →
    s.env.reset = true ∨ (s.unheld ∧ s.env.int = true ∧ s.inte = true)

/-- INTE rises only where an enable was pending and an instruction other than DI was fetched: that it rises after the instruction
that follows EI, and not when that is DI, is the spec's decision D8 (log 21). It falls only by RESET, by an accepted interrupt
or by DI (10_state R21, 60_exceptions R252). -/
def Obligations.InteChangesOnlyAsNamed : Prop :=
  ∀ s t : State, step s = .next t →
    (s.inte = false → t.inte = true →
      s.eiPending = true ∧ s.unheld ∧ s.halted = false ∧ s.nextInstr ≠ .di) ∧
    (s.inte = true → t.inte = false →
      s.env.reset = true ∨ (s.unheld ∧ s.env.int = true) ∨
      (s.unheld ∧ s.env.int = false ∧ s.halted = false ∧ s.nextInstr = .di))

/-- EI makes an enable pending; the step that executes the next instruction sets INTE, unless that instruction is DI
(60_exceptions R252; decision D8, log 21). -/
def Obligations.EiDelaysOneInstruction : Prop :=
  ∀ (s : State) (n : Nat), s.fetchesNext n →
    (s.nextInstr = .ei → ∃ t, step s = .next t ∧ t.eiPending = true ∧ t.inte = (s.inte || s.eiPending)) ∧
    (s.nextInstr = .di → ∃ t, step s = .next t ∧ t.eiPending = false ∧ t.inte = false) ∧
    (∀ t, s.nextInstr ≠ .ei → s.nextInstr ≠ .di → step s = .next t →
      t.eiPending = false ∧ t.inte = (s.inte || s.eiPending))

/-- Wait states only add time: with `n` of them a step does what it does with none, `n` states later (50_machine_cycles R232,
70_reset R296; one wait count for the whole step is log 10). -/
def Obligations.WaitStatesOnlyAddTime : Prop :=
  ∀ (s : State) (e : Env) (es : List Env) (n : Nat), s.inputs = e :: es → e.waits = some n →
    step s = step { s with inputs := { e with waits := some 0 } :: es } ∨
    ∃ t, step { s with inputs := { e with waits := some 0 } :: es } = .next t ∧
      step s = .next { t with clock := t.clock + n }

/-! ### Invariants -/

/-- The invariant of the states between two steps holds after RESET. -/
def Obligations.InvariantAtReset : Prop := State.reset.Inv

/-- Every step keeps the invariant: canonical memory, HLDA only with a hold agent, no enable pending while halted, no hold due
inside an instruction (20_memory R40, 10_state R22, R23, R25). -/
def Obligations.StepKeepsInvariant : Prop := ∀ s t : State, s.Inv → step s = .next t → t.Inv

/-- A byte at an address that is not RAM keeps its content in every step, whatever the instruction, the interrupt or the HOLD
master does, and the platform never changes (20_memory R45; decision D3, log 3). -/
def Obligations.StepKeepsNonRamBytes : Prop :=
  ∀ (p : Platform) (a : Word) (v : Byte) (s t : State),
    (s.platform = p ∧ memKind p a ≠ .ram ∧ s.byteAt a = v) → step s = .next t →
      t.platform = p ∧ memKind p a ≠ .ram ∧ t.byteAt a = v

/-- A step never takes back a machine cycle, time or a free value, and uses up the inputs of one boundary (log 4 to 7). -/
def Obligations.HistoryOnlyGrows : Prop :=
  ∀ s t : State, step s = .next t →
    (∃ cycles, t.trace = cycles ++ s.trace) ∧ s.clock ≤ t.clock ∧ s.draws ≤ t.draws ∧ t.inputs = s.inputs.tail

/-- A fetched instruction performs exactly the machine cycles of its row of 50_machine_cycles R236, in their order, and takes
its states and the wait states (one count per step, log 10). Its states are those of its machine cycles: M1 has 5 for the
instructions of R226 and 4 for every other, each later cycle 3, the last cycle of XTHL 5 (R221); there are as many cycles as
R236 says, with the halt-acknowledge cycle besides for HLT (90_conflicts C4); every instruction takes 4 to 18 states. What an
undefined opcode takes is the spec's presumption G2 (log 13). -/
def Obligations.FetchedInstructionTiming : Prop :=
  (∀ (s t : State) (n : Nat), s.fetchesNext n → step s = .next t →
    t.clock = s.clock + (statesOf s.nextInstr s.flags + n) ∧
    ∃ cycles : List BusCycle, t.trace = cycles.reverse ++ s.trace ∧
      cycles.map BusCycle.kind = sequenceOf s.nextInstr s.flags) ∧
  (∀ (i : Instr) (f : Flags), ∃ later,
    cycleStates i f = fetchStates i :: later ∧ statesOf i f = fetchStates i + later.sum ∧
    (i ≠ .xthl → ∀ n ∈ later, n = 3) ∧ later.length + 1 = cyclesOf i f + (if i = .hlt then 1 else 0) ∧
    4 ≤ statesOf i f ∧ statesOf i f ≤ 18) ∧
  (∀ f, cycleStates .xthl f = [4, 3, 3, 3, 5]) ∧
  ∀ (op b2 b3 : Byte) (group mid low : Nat), op ∉ undefinedOpcodes →
    group = op.toNat / 64 → mid = op.toNat / 8 % 8 → low = op.toNat % 8 →
      fetchStates (decodeOp op b2 b3) =
        if (group = 1 ∧ mid ≠ 6 ∧ low ≠ 6) ∨ (group = 0 ∧ mid ≠ 6 ∧ (low = 4 ∨ low = 5)) ∨ (group = 0 ∧ low = 3) ∨
          op ∈ [0xF9, 0xE9, 0xC5, 0xD5, 0xE5, 0xF5, 0xCD] ∨ (group = 3 ∧ (low = 7 ∨ low = 4 ∨ low = 0)) then 5
        else 4

/-- A step stops only as one of the four outcomes of 00_scope R8 (decisions D1, D2, D10, D15), each only in its own situation,
and never for want of a meaning. -/
def Obligations.StopsAreNamed : Prop :=
  ∀ s : State, (∀ r, step s ≠ .refused r) ∧
    ∀ r, step s = .fault r →
      (∃ op u, r = .undefinedOpcode op u ∧ op ∈ undefinedOpcodes ∧ s.platform.undefOpcode = .fault) ∨
      (∃ b u, r = .badInterruptInstruction b u ∧ s.env.int = true ∧ s.inte = true) ∨
      (∃ u, r = .stuckHalted u ∧ s.halted = true ∧ s.inte = false) ∨
      (∃ u, r = .stuckWait u ∧ s.env.waits = none)

/-- A boundary that fetches a defined instruction is always followed by a next state: no ordinary data stops the machine
(60_exceptions R250). -/
def Obligations.DefinedInstructionsRun : Prop :=
  ∀ (s : State) (n : Nat), s.fetchesNext n → (∀ op, s.nextInstr ≠ .undefined op) → ∃ t, step s = .next t

/-! ### What an instruction leaves unchanged -/

/-- An instruction writes only the registers, and SP only where, 10_state R27 says it can. -/
def Obligations.RegistersWritten : Prop :=
  ∀ (i : Instr) (s t : State), exec i s = .next t →
    (∀ q, q ∉ (footprint i s).regs → t.regs.get q = s.regs.get q) ∧ ((footprint i s).sp = false → t.sp = s.sp)

/-- An instruction writes only the flags 10_state R19 names for it. -/
def Obligations.FlagsWritten : Prop :=
  ∀ (i : Instr) (s t : State) (fl : FlagName), exec i s = .next t → fl ∉ (footprint i s).flags →
    t.flags.get fl = s.flags.get fl

/-- With no hold inside it, an instruction changes no byte of memory outside the addresses it stores to, which are computed as
its meaning computes them (20_memory R54, R55). -/
def Obligations.MemoryWritten : Prop :=
  ∀ (i : Instr) (s t : State) (a : Word), s.holds = [] → exec i s = .next t → a ∉ (footprint i s).stores →
    t.byteAt a = s.byteAt a

/-- INTE is written by DI only, ei_pending by EI and DI, halted by HLT, PC by the branch group; HLDA, the platform, the inputs
and the clock by no instruction (10_state R15, R21 to R23, R25). -/
def Obligations.ControlStateWritten : Prop :=
  ∀ (i : Instr) (s t : State), exec i s = .next t →
    (i ≠ .di → t.inte = s.inte) ∧ (i ≠ .ei → i ≠ .di → t.eiPending = s.eiPending) ∧ (i ≠ .hlt → t.halted = s.halted) ∧
    ((footprint i s).branches = false → t.pc = s.pc) ∧
    t.hlda = s.hlda ∧ t.platform = s.platform ∧ t.inputs = s.inputs ∧ t.clock = s.clock

/-- An instruction depends on no flag that 10_state R19 does not name as read: two states that differ only in such flags come
to states that differ in no flag the instruction writes and in nothing but flags. -/
def Obligations.FlagsRead : Prop :=
  ∀ (i : Instr) (s t : State) (f : Flags), (∀ fl, fl ∈ (footprint i s).reads → f.get fl = s.flags.get fl) →
    exec i s = .next t →
      ∃ u, exec i { s with flags := f } = .next u ∧ t = { u with flags := t.flags } ∧
        ∀ fl, fl ∈ (footprint i s).flags → u.flags.get fl = t.flags.get fl

/-! ### Data transfer (41_data_transfer) -/

/-- MOV r1,r2, MVI r, LXI and XCHG: the registers written, and nothing else (R100, R103, R105, R112). -/
def Obligations.MoveResult : Prop :=
  ∀ s : State,
    (∀ dst src,
      hasFormat (.movRR dst src) [0b01#2 ++ dst.code ++ src.code] 1 5 ∧
      ∃ g, exec (.movRR dst src) s = .next { s with regs := g } ∧
        ∀ q, g.get q = if q = dst then s.regs.get src else s.regs.get q) ∧
    (∀ dst data,
      hasFormat (.mviR dst data) [0b00#2 ++ dst.code ++ 0b110#3, data] 2 7 ∧
      ∃ g, exec (.mviR dst data) s = .next { s with regs := g } ∧
        ∀ q, g.get q = if q = dst then data else s.regs.get q) ∧
    (∀ b2 b3 : Byte,
      (∀ rp, hasFormat (.lxi rp (joinBytes b3 b2)) [0b00#2 ++ rp.code ++ 0b0001#4, b2, b3] 3 10) ∧
      exec (.lxi .bc (joinBytes b3 b2)) s = .next { s with regs := { s.regs with b := b3, c := b2 } } ∧
      exec (.lxi .de (joinBytes b3 b2)) s = .next { s with regs := { s.regs with d := b3, e := b2 } } ∧
      exec (.lxi .hl (joinBytes b3 b2)) s = .next { s with regs := { s.regs with h := b3, l := b2 } } ∧
      exec (.lxi .sp (joinBytes b3 b2)) s = .next { s with sp := joinBytes b3 b2 }) ∧
    hasFormat .xchg [0b11101011] 1 4 ∧
    exec .xchg s = .next { s with
      regs := { s.regs with h := s.regs.d, l := s.regs.e, d := s.regs.h, e := s.regs.l } }

/-- MOV r,M, LDA and LDAX: one read, the byte in the register, and nothing else (R101, R106, R110); the byte is the content of
memory where RAM or ROM answers (20_memory R44). Elsewhere it is a free value, counted by `draws`: the spec's decision D3,
log 5. -/
def Obligations.LoadResult : Prop :=
  (∀ s : State, s.holds = [] →
    (∀ dst, hasFormat (.movRM dst) [0b01#2 ++ dst.code ++ 0b110#3] 2 7 ∧
      LoadsByte (.movRM dst) s (joinBytes s.regs.h s.regs.l) dst) ∧
    (∀ b2 b3, hasFormat (.lda (joinBytes b3 b2)) [0b00111010, b2, b3] 4 13 ∧
      LoadsByte (.lda (joinBytes b3 b2)) s (joinBytes b3 b2) .a) ∧
    (hasFormat (.ldax .bc) [0b00001010] 2 7 ∧ LoadsByte (.ldax .bc) s (joinBytes s.regs.b s.regs.c) .a) ∧
    (hasFormat (.ldax .de) [0b00011010] 2 7 ∧ LoadsByte (.ldax .de) s (joinBytes s.regs.d s.regs.e) .a)) ∧
  ∀ (s : State) (a : Word), s.holdsByte a → s.readValue a = s.byteAt a ∧ (s.afterRead a).draws = s.draws

/-- MOV M,r, MVI M, STA and STAX: one write of the byte at the address, and nothing else (R102, R104, R107, R111). That a store to
ROM, an empty address or a device leaves memory as it was is the spec's decision D3 (20_memory R45; log 3, log 25). -/
def Obligations.StoreResult : Prop :=
  ∀ s : State, s.holds = [] →
    (∀ src, hasFormat (.movMR src) [0b01110#5 ++ src.code] 2 7 ∧
      StoresByte (.movMR src) s (joinBytes s.regs.h s.regs.l) (s.regs.get src)) ∧
    (∀ data, hasFormat (.mviM data) [0b00110110, data] 3 10 ∧
      StoresByte (.mviM data) s (joinBytes s.regs.h s.regs.l) data) ∧
    (∀ b2 b3, hasFormat (.sta (joinBytes b3 b2)) [0b00110010, b2, b3] 4 13 ∧
      StoresByte (.sta (joinBytes b3 b2)) s (joinBytes b3 b2) s.regs.a) ∧
    (hasFormat (.stax .bc) [0b00000010] 2 7 ∧ StoresByte (.stax .bc) s (joinBytes s.regs.b s.regs.c) s.regs.a) ∧
    (hasFormat (.stax .de) [0b00010010] 2 7 ∧ StoresByte (.stax .de) s (joinBytes s.regs.d s.regs.e) s.regs.a)

/-- LHLD and SHLD: L at the address, H at the next, L first, in two accesses (R108, R109; the address after FFFFH is 0000H by
the spec's decision D4, log 19; stores outside RAM are lost by decision D3, log 3, log 25). -/
def Obligations.HlDirectResult : Prop :=
  ∀ (s : State) (b2 b3 : Byte) (addr : Word), s.holds = [] → addr = joinBytes b3 b2 →
    hasFormat (.lhld addr) [0b00101010, b2, b3] 5 16 ∧
    exec (.lhld addr) s = .next { (s.readCycle .memRead addr).readCycle .memRead (addr + 1) with
      regs := { s.regs with
        l := s.readValue addr
        h := (s.readCycle .memRead addr).readValue (addr + 1) } } ∧
    hasFormat (.shld addr) [0b00100010, b2, b3] 5 16 ∧
    ∃ m, exec (.shld addr) s = .next { s with
        mem := m
        trace := { kind := .memWrite, addr := addr + 1, data := some s.regs.h } ::
          { kind := .memWrite, addr := addr, data := some s.regs.l } :: s.trace } ∧
      StoresAt s [(addr, s.regs.l), (addr + 1, s.regs.h)] m

/-! ### Arithmetic (42_arithmetic) -/

/-- ADD, ADI, ADC, ACI: A takes the sum modulo 256, the five flags are those of the sum; the M forms read one byte at HL
(R120, R122 to R127), a free value where neither RAM nor ROM answers (20_memory R44, the spec's decision D3, log 5). -/
def Obligations.AddResult : Prop :=
  ∀ s : State,
    (∀ r, hasFormat (.addR r) [0b10000#5 ++ r.code] 1 4 ∧
      Accumulates (.addR r) s s (IsSum s.regs.a (s.regs.get r) false)) ∧
    (∀ data, hasFormat (.adi data) [0b11000110, data] 2 7 ∧
      Accumulates (.adi data) s s (IsSum s.regs.a data false)) ∧
    (∀ r, hasFormat (.adcR r) [0b10001#5 ++ r.code] 1 4 ∧
      Accumulates (.adcR r) s s (IsSum s.regs.a (s.regs.get r) s.flags.cy)) ∧
    (∀ data, hasFormat (.aci data) [0b11001110, data] 2 7 ∧
      Accumulates (.aci data) s s (IsSum s.regs.a data s.flags.cy)) ∧
    hasFormat .addM [0b10000110] 2 7 ∧ hasFormat .adcM [0b10001110] 2 7 ∧
    (s.holds = [] → ∀ hl, hl = joinBytes s.regs.h s.regs.l →
      Accumulates .addM s (s.readCycle .memRead hl) (IsSum s.regs.a (s.readValue hl) false) ∧
      Accumulates .adcM s (s.readCycle .memRead hl) (IsSum s.regs.a (s.readValue hl) s.flags.cy))

/-- SUB, SUI, SBB, SBI: A takes the difference modulo 256, CY is the borrow; the M forms read one byte at HL (R121, R128 to
R133). AC is set where no borrow from bit 4 occurs: the spec's decision D13, log 16. -/
def Obligations.SubtractResult : Prop :=
  ∀ s : State,
    (∀ r, hasFormat (.subR r) [0b10010#5 ++ r.code] 1 4 ∧
      Accumulates (.subR r) s s (IsDifference s.regs.a (s.regs.get r) false)) ∧
    (∀ data, hasFormat (.sui data) [0b11010110, data] 2 7 ∧
      Accumulates (.sui data) s s (IsDifference s.regs.a data false)) ∧
    (∀ r, hasFormat (.sbbR r) [0b10011#5 ++ r.code] 1 4 ∧
      Accumulates (.sbbR r) s s (IsDifference s.regs.a (s.regs.get r) s.flags.cy)) ∧
    (∀ data, hasFormat (.sbi data) [0b11011110, data] 2 7 ∧
      Accumulates (.sbi data) s s (IsDifference s.regs.a data s.flags.cy)) ∧
    hasFormat .subM [0b10010110] 2 7 ∧ hasFormat .sbbM [0b10011110] 2 7 ∧
    (s.holds = [] → ∀ hl, hl = joinBytes s.regs.h s.regs.l →
      Accumulates .subM s (s.readCycle .memRead hl) (IsDifference s.regs.a (s.readValue hl) false) ∧
      Accumulates .sbbM s (s.readCycle .memRead hl) (IsDifference s.regs.a (s.readValue hl) s.flags.cy))

/-- INR r and INR M: one added modulo 256, Z, S, P, AC from it, CY unchanged (R134, R135). That the store of INR M outside RAM
leaves memory as it was is the spec's decision D3 (20_memory R45; log 3, log 25), what it reads there a free value (log 5). -/
def Obligations.IncrementResult : Prop :=
  ∀ s : State,
    (∀ r, hasFormat (.inrR r) [0b00#2 ++ r.code ++ 0b100#3] 1 5 ∧
      ∃ g f, exec (.inrR r) s = .next { s with regs := g, flags := f } ∧
        (g.get r).toNat = ((s.regs.get r).toNat + 1) % 256 ∧ (∀ q, q ≠ r → g.get q = s.regs.get q) ∧
        ZspOf (g.get r) f ∧ f.cy = s.flags.cy ∧ f.ac = decide ((g.get r).toNat % 16 = 0)) ∧
    hasFormat .inrM [0b00110100] 3 10 ∧
    (s.holds = [] → ∀ hl, hl = joinBytes s.regs.h s.regs.l →
      ∃ v m f, exec .inrM s = .next { s.readCycle .memRead hl with
          mem := m
          flags := f
          trace := { kind := .memWrite, addr := hl, data := some v } :: (s.readCycle .memRead hl).trace } ∧
        v.toNat = ((s.readValue hl).toNat + 1) % 256 ∧ StoresAt s [(hl, v)] m ∧
        ZspOf v f ∧ f.cy = s.flags.cy ∧ f.ac = decide (v.toNat % 16 = 0))

/-- DCR r and DCR M: one subtracted modulo 256, Z, S, P from it, CY unchanged (R136, R137); AC is set unless the old low nibble
was 0: the spec's decision D13, log 16. Outside RAM the store of DCR M is lost: decision D3, log 3, log 25. -/
def Obligations.DecrementResult : Prop :=
  ∀ s : State,
    (∀ r, hasFormat (.dcrR r) [0b00#2 ++ r.code ++ 0b101#3] 1 5 ∧
      ∃ g f, exec (.dcrR r) s = .next { s with regs := g, flags := f } ∧
        ((g.get r).toNat + 1) % 256 = (s.regs.get r).toNat ∧ (∀ q, q ≠ r → g.get q = s.regs.get q) ∧
        ZspOf (g.get r) f ∧ f.cy = s.flags.cy ∧ f.ac = decide ((s.regs.get r).toNat % 16 ≠ 0)) ∧
    hasFormat .dcrM [0b00110101] 3 10 ∧
    (s.holds = [] → ∀ hl, hl = joinBytes s.regs.h s.regs.l →
      ∃ v m f, exec .dcrM s = .next { s.readCycle .memRead hl with
          mem := m
          flags := f
          trace := { kind := .memWrite, addr := hl, data := some v } :: (s.readCycle .memRead hl).trace } ∧
        (v.toNat + 1) % 256 = (s.readValue hl).toNat ∧ StoresAt s [(hl, v)] m ∧
        ZspOf v f ∧ f.cy = s.flags.cy ∧ f.ac = decide ((s.readValue hl).toNat % 16 ≠ 0))

/-- INX and DCX: the pair steps by one modulo 65,536 (decision D4, log 19), every other register and every flag unchanged
(R138, R139). -/
def Obligations.PairStepResult : Prop :=
  ∀ (s : State) (rp : Pair),
    hasFormat (.inx rp) [0b00#2 ++ rp.code ++ 0b0011#4] 1 5 ∧
    (∃ g p, exec (.inx rp) s = .next { s with regs := g, sp := p } ∧
      (State.pair { s with regs := g, sp := p } rp).toNat = ((s.pair rp).toNat + 1) % 65536 ∧
      (∀ q, q ≠ rp → State.pair { s with regs := g, sp := p } q = s.pair q) ∧ g.a = s.regs.a) ∧
    hasFormat (.dcx rp) [0b00#2 ++ rp.code ++ 0b1011#4] 1 5 ∧
    (∃ g p, exec (.dcx rp) s = .next { s with regs := g, sp := p } ∧
      ((State.pair { s with regs := g, sp := p } rp).toNat + 1) % 65536 = (s.pair rp).toNat ∧
      (∀ q, q ≠ rp → State.pair { s with regs := g, sp := p } q = s.pair q) ∧ g.a = s.regs.a)

/-- DAD: HL takes the 16-bit sum, CY its carry, every other register and flag unchanged, no memory access (R140). -/
def Obligations.DoubleAddResult : Prop :=
  ∀ (s : State) (rp : Pair),
    hasFormat (.dad rp) [0b00#2 ++ rp.code ++ 0b1001#4] 3 10 ∧
    ∃ h l, exec (.dad rp) s = .next { s with
        regs := { s.regs with h := h, l := l }
        flags := { s.flags with cy := decide (65536 ≤ (s.pair .hl).toNat + (s.pair rp).toNat) } } ∧
      (joinBytes h l).toNat = ((s.pair .hl).toNat + (s.pair rp).toNat) % 65536

/-- DAA: 6 added to A where the low digit is above 9 or AC is set; then 60H added where the high digit is now above 9, CY was
set or the first addition carried; all five flags (R141). How CY and AC are formed is the spec's decision D14, log 18. -/
def Obligations.DecimalAdjustResult : Prop :=
  ∀ (s : State) (a low high : Nat), a = s.regs.a.toNat → low = (if a % 16 > 9 ∨ s.flags.ac = true then 6 else 0) →
    high = (if (a + low) % 256 / 16 > 9 ∨ s.flags.cy = true ∨ 256 ≤ a + low then 96 else 0) →
      hasFormat .daa [0b00100111] 1 4 ∧
      Accumulates .daa s s fun r f =>
        r.toNat = (a + low + high) % 256 ∧ f.cy = decide (high = 96) ∧ f.ac = decide (16 ≤ a % 16 + low) ∧ ZspOf r f

/-- An addition of two packed decimal bytes with carry in, then DAA, gives the decimal sum with its carry: the stated purpose of
DAA (R141, 92 D14; log 18). -/
def Obligations.DecimalAddition : Prop :=
  ∀ (s : State) (v : Byte), isBcd s.regs.a → isBcd v →
    ∃ t u, exec (.aci v) s = .next t ∧ exec .daa t = .next u ∧ isBcd u.regs.a ∧
      bcdValue u.regs.a + 100 * bitValue u.flags.cy = bcdValue s.regs.a + bcdValue v + bitValue s.flags.cy

/-! ### Logical (43_logical) -/

/-- ANA, ANI, XRA, XRI, ORA, ORI: A takes the operation bit by bit, Z, S, P from it, CY cleared; AC is 0, or on a platform with
ANA_AC = silicon the OR of the two bits 3 after ANA and ANI (R150 to R159; decision D12, log 17). -/
def Obligations.BooleanResult : Prop :=
  ∀ (s : State) (anaAc : Byte → Bool),
    (∀ v, anaAc v = (decide (s.platform.anaAC = .silicon) && (s.regs.a.getLsbD 3 || v.getLsbD 3))) →
    (∀ r, hasFormat (.anaR r) [0b10100#5 ++ r.code] 1 4 ∧
      Accumulates (.anaR r) s s (IsBoolean and (anaAc (s.regs.get r)) s.regs.a (s.regs.get r))) ∧
    (∀ data, hasFormat (.ani data) [0b11100110, data] 2 7 ∧
      Accumulates (.ani data) s s (IsBoolean and (anaAc data) s.regs.a data)) ∧
    (∀ r, hasFormat (.xraR r) [0b10101#5 ++ r.code] 1 4 ∧
      Accumulates (.xraR r) s s (IsBoolean xor false s.regs.a (s.regs.get r))) ∧
    (∀ data, hasFormat (.xri data) [0b11101110, data] 2 7 ∧
      Accumulates (.xri data) s s (IsBoolean xor false s.regs.a data)) ∧
    (∀ r, hasFormat (.oraR r) [0b10110#5 ++ r.code] 1 4 ∧
      Accumulates (.oraR r) s s (IsBoolean or false s.regs.a (s.regs.get r))) ∧
    (∀ data, hasFormat (.ori data) [0b11110110, data] 2 7 ∧
      Accumulates (.ori data) s s (IsBoolean or false s.regs.a data)) ∧
    hasFormat .anaM [0b10100110] 2 7 ∧ hasFormat .xraM [0b10101110] 2 7 ∧ hasFormat .oraM [0b10110110] 2 7 ∧
    (s.holds = [] → ∀ hl, hl = joinBytes s.regs.h s.regs.l →
      Accumulates .anaM s (s.readCycle .memRead hl)
        (IsBoolean and (anaAc (s.readValue hl)) s.regs.a (s.readValue hl)) ∧
      Accumulates .xraM s (s.readCycle .memRead hl) (IsBoolean xor false s.regs.a (s.readValue hl)) ∧
      Accumulates .oraM s (s.readCycle .memRead hl) (IsBoolean or false s.regs.a (s.readValue hl)))

/-- CMP r, CMP M, CPI: no register changes; the flags are those of A - v, Z set exactly when A = v, CY exactly when A < v as
unsigned numbers (R160 to R162; AC is the spec's decision D13, log 16). -/
def Obligations.CompareResult : Prop :=
  ∀ s : State,
    (∀ r, hasFormat (.cmpR r) [0b10111#5 ++ r.code] 1 4 ∧
      ∃ x f, exec (.cmpR r) s = .next { s with flags := f } ∧ IsDifference s.regs.a (s.regs.get r) false x f ∧
        f.z = decide (s.regs.a = s.regs.get r) ∧ f.cy = decide (s.regs.a.toNat < (s.regs.get r).toNat)) ∧
    (∀ data, hasFormat (.cpi data) [0b11111110, data] 2 7 ∧
      ∃ x f, exec (.cpi data) s = .next { s with flags := f } ∧ IsDifference s.regs.a data false x f ∧
        f.z = decide (s.regs.a = data) ∧ f.cy = decide (s.regs.a.toNat < data.toNat)) ∧
    hasFormat .cmpM [0b10111110] 2 7 ∧
    (s.holds = [] → ∀ hl, hl = joinBytes s.regs.h s.regs.l →
      ∃ x f, exec .cmpM s = .next { s.readCycle .memRead hl with flags := f } ∧
        IsDifference s.regs.a (s.readValue hl) false x f ∧
        f.z = decide (s.regs.a = s.readValue hl) ∧ f.cy = decide (s.regs.a.toNat < (s.readValue hl).toNat))

/-- RLC, RRC, RAL, RAR: A rotated by one place, alone or through CY; only CY is written (R163 to R166). -/
def Obligations.RotateResult : Prop :=
  ∀ (s : State) (a : Nat), a = s.regs.a.toNat →
    hasFormat .rlc [0b00000111] 1 4 ∧ hasFormat .rrc [0b00001111] 1 4 ∧
    hasFormat .ral [0b00010111] 1 4 ∧ hasFormat .rar [0b00011111] 1 4 ∧
    Accumulates .rlc s s (fun r f => r.toNat = a * 2 % 256 + a / 128 ∧ f = { s.flags with cy := decide (128 ≤ a) }) ∧
    Accumulates .rrc s s (fun r f => r.toNat = a % 2 * 128 + a / 2 ∧ f = { s.flags with cy := decide (a % 2 = 1) }) ∧
    Accumulates .ral s s (fun r f =>
      r.toNat = a * 2 % 256 + bitValue s.flags.cy ∧ f = { s.flags with cy := decide (128 ≤ a) }) ∧
    Accumulates .rar s s (fun r f =>
      r.toNat = bitValue s.flags.cy * 128 + a / 2 ∧ f = { s.flags with cy := decide (a % 2 = 1) })

/-- CMA complements A and writes no flag; CMC and STC write CY only (R167 to R169). -/
def Obligations.ComplementResult : Prop :=
  ∀ s : State,
    hasFormat .cma [0b00101111] 1 4 ∧ hasFormat .cmc [0b00111111] 1 4 ∧ hasFormat .stc [0b00110111] 1 4 ∧
    Accumulates .cma s s (fun r f => r.toNat = 255 - s.regs.a.toNat ∧ f = s.flags) ∧
    exec .cmc s = .next { s with flags := { s.flags with cy := !s.flags.cy } } ∧
    exec .stc s = .next { s with flags := { s.flags with cy := true } }

/-! ### Branch (44_branch) -/

/-- JMP always, and each conditional jump exactly when its condition holds, loads PC; nothing else changes (R180 to R182). -/
def Obligations.JumpResult : Prop :=
  ∀ (s : State) (b2 b3 : Byte) (addr : Word), addr = joinBytes b3 b2 →
    (hasFormat (.jmp addr) [0b11000011, b2, b3] 3 10 ∧ exec (.jmp addr) s = .next { s with pc := addr }) ∧
    (hasFormat (.jnz addr) [0b11000010, b2, b3] 3 10 ∧
      exec (.jnz addr) s = .next { s with pc := if s.flags.z = false then addr else s.pc }) ∧
    (hasFormat (.jz addr) [0b11001010, b2, b3] 3 10 ∧
      exec (.jz addr) s = .next { s with pc := if s.flags.z = true then addr else s.pc }) ∧
    (hasFormat (.jnc addr) [0b11010010, b2, b3] 3 10 ∧
      exec (.jnc addr) s = .next { s with pc := if s.flags.cy = false then addr else s.pc }) ∧
    (hasFormat (.jc addr) [0b11011010, b2, b3] 3 10 ∧
      exec (.jc addr) s = .next { s with pc := if s.flags.cy = true then addr else s.pc }) ∧
    (hasFormat (.jpo addr) [0b11100010, b2, b3] 3 10 ∧
      exec (.jpo addr) s = .next { s with pc := if s.flags.p = false then addr else s.pc }) ∧
    (hasFormat (.jpe addr) [0b11101010, b2, b3] 3 10 ∧
      exec (.jpe addr) s = .next { s with pc := if s.flags.p = true then addr else s.pc }) ∧
    (hasFormat (.jp addr) [0b11110010, b2, b3] 3 10 ∧
      exec (.jp addr) s = .next { s with pc := if s.flags.s = false then addr else s.pc }) ∧
    (hasFormat (.jm addr) [0b11111010, b2, b3] 3 10 ∧
      exec (.jm addr) s = .next { s with pc := if s.flags.s = true then addr else s.pc })

/-- CALL and RST always, and each conditional call exactly when its condition holds, push PC and go to the target; otherwise
nothing happens (R183, R184, R187; SP wraps by decision D4, log 19; stores outside RAM are lost by decision D3, log 25). -/
def Obligations.CallResult : Prop :=
  ∀ s : State, s.holds = [] →
    (∀ n, hasFormat (.rst n) [0b11#2 ++ n ++ 0b111#3] 3 11 ∧
      PushesAndGoes (.rst n) s s.pc (BitVec.ofNat 16 (8 * n.toNat))) ∧
    ∀ (b2 b3 : Byte) (addr : Word), addr = joinBytes b3 b2 →
      (hasFormat (.call addr) [0b11001101, b2, b3] 5 17 ∧ PushesAndGoes (.call addr) s s.pc addr) ∧
      (hasConditionalTiming (.cnz addr) .nz 3 11 5 17 ∧ encode (.cnz addr) = [0b11000100, b2, b3] ∧
        if s.flags.z = false then PushesAndGoes (.cnz addr) s s.pc addr else exec (.cnz addr) s = .next s) ∧
      (hasConditionalTiming (.cz addr) .z 3 11 5 17 ∧ encode (.cz addr) = [0b11001100, b2, b3] ∧
        if s.flags.z = true then PushesAndGoes (.cz addr) s s.pc addr else exec (.cz addr) s = .next s) ∧
      (hasConditionalTiming (.cnc addr) .nc 3 11 5 17 ∧ encode (.cnc addr) = [0b11010100, b2, b3] ∧
        if s.flags.cy = false then PushesAndGoes (.cnc addr) s s.pc addr else exec (.cnc addr) s = .next s) ∧
      (hasConditionalTiming (.cc addr) .c 3 11 5 17 ∧ encode (.cc addr) = [0b11011100, b2, b3] ∧
        if s.flags.cy = true then PushesAndGoes (.cc addr) s s.pc addr else exec (.cc addr) s = .next s) ∧
      (hasConditionalTiming (.cpo addr) .po 3 11 5 17 ∧ encode (.cpo addr) = [0b11100100, b2, b3] ∧
        if s.flags.p = false then PushesAndGoes (.cpo addr) s s.pc addr else exec (.cpo addr) s = .next s) ∧
      (hasConditionalTiming (.cpe addr) .pe 3 11 5 17 ∧ encode (.cpe addr) = [0b11101100, b2, b3] ∧
        if s.flags.p = true then PushesAndGoes (.cpe addr) s s.pc addr else exec (.cpe addr) s = .next s) ∧
      (hasConditionalTiming (.cp addr) .p 3 11 5 17 ∧ encode (.cp addr) = [0b11110100, b2, b3] ∧
        if s.flags.s = false then PushesAndGoes (.cp addr) s s.pc addr else exec (.cp addr) s = .next s) ∧
      (hasConditionalTiming (.cm addr) .m 3 11 5 17 ∧ encode (.cm addr) = [0b11111100, b2, b3] ∧
        if s.flags.s = true then PushesAndGoes (.cm addr) s s.pc addr else exec (.cm addr) s = .next s)

/-- RET always, and each conditional return exactly when its condition holds, pops PC; otherwise nothing happens, not even a
read (R185, R186; SP wraps by decision D4, log 19). -/
def Obligations.ReturnResult : Prop :=
  ∀ s : State, s.holds = [] →
    (hasFormat .ret [0b11001001] 3 10 ∧ Returns .ret s) ∧
    (hasConditionalTiming .rnz .nz 1 5 3 11 ∧ encode .rnz = [0b11000000] ∧
      if s.flags.z = false then Returns .rnz s else exec .rnz s = .next s) ∧
    (hasConditionalTiming .rz .z 1 5 3 11 ∧ encode .rz = [0b11001000] ∧
      if s.flags.z = true then Returns .rz s else exec .rz s = .next s) ∧
    (hasConditionalTiming .rnc .nc 1 5 3 11 ∧ encode .rnc = [0b11010000] ∧
      if s.flags.cy = false then Returns .rnc s else exec .rnc s = .next s) ∧
    (hasConditionalTiming .rc .c 1 5 3 11 ∧ encode .rc = [0b11011000] ∧
      if s.flags.cy = true then Returns .rc s else exec .rc s = .next s) ∧
    (hasConditionalTiming .rpo .po 1 5 3 11 ∧ encode .rpo = [0b11100000] ∧
      if s.flags.p = false then Returns .rpo s else exec .rpo s = .next s) ∧
    (hasConditionalTiming .rpe .pe 1 5 3 11 ∧ encode .rpe = [0b11101000] ∧
      if s.flags.p = true then Returns .rpe s else exec .rpe s = .next s) ∧
    (hasConditionalTiming .rp .p 1 5 3 11 ∧ encode .rp = [0b11110000] ∧
      if s.flags.s = false then Returns .rp s else exec .rp s = .next s) ∧
    (hasConditionalTiming .rm .m 1 5 3 11 ∧ encode .rm = [0b11111000] ∧
      if s.flags.s = true then Returns .rm s else exec .rm s = .next s)

/-- PCHL loads PC and SPHL loads SP from H and L; nothing else changes (44_branch R188, which the spec derives for a lost page;
45 R205). -/
def Obligations.HlToPointerResult : Prop :=
  ∀ s : State,
    hasFormat .pchl [0b11101001] 1 5 ∧ exec .pchl s = .next { s with pc := joinBytes s.regs.h s.regs.l } ∧
    hasFormat .sphl [0b11111001] 1 5 ∧ exec .sphl s = .next { s with sp := joinBytes s.regs.h s.regs.l }

/-! ### Stack, input and output, machine control (45_stack_io_control) -/

/-- PUSH and PUSH PSW: two bytes stored below SP, high byte first, SP decreased by 2, PC and all else unchanged; the low byte of
PSW is S Z 0 AC 0 P 1 CY (R200, R201, 10_state R20; SP wraps by decision D4, log 19; stores outside RAM are lost by decision
D3, log 25). -/
def Obligations.PushResult : Prop :=
  ∀ s : State, s.holds = [] →
    hasFormat (.push .bc) [0b11000101] 3 11 ∧ PushesAndGoes (.push .bc) s (joinBytes s.regs.b s.regs.c) s.pc ∧
    hasFormat (.push .de) [0b11010101] 3 11 ∧ PushesAndGoes (.push .de) s (joinBytes s.regs.d s.regs.e) s.pc ∧
    hasFormat (.push .hl) [0b11100101] 3 11 ∧ PushesAndGoes (.push .hl) s (joinBytes s.regs.h s.regs.l) s.pc ∧
    hasFormat .pushPsw [0b11110101] 3 11 ∧
    ∀ v : Byte,
      v.toNat = 128 * bitValue s.flags.s + 64 * bitValue s.flags.z + 16 * bitValue s.flags.ac +
        4 * bitValue s.flags.p + 2 + bitValue s.flags.cy →
      PushesAndGoes .pushPsw s (joinBytes s.regs.a v) s.pc

/-- POP and POP PSW: the low byte read at SP, then the high byte at SP + 1, SP increased by 2, the pair or A and the five flags
loaded, bits 5, 3, 1 of the flag byte ignored (R202, R203, 10_state R20; SP wraps by decision D4, log 19). -/
def Obligations.PopResult : Prop :=
  ∀ s : State, s.holds = [] →
    hasFormat (.pop .bc) [0b11000001] 3 10 ∧
    exec (.pop .bc) s = .next { s.popReads with
      sp := s.sp + 2, regs := { s.regs with b := s.popHigh, c := s.popLow } } ∧
    hasFormat (.pop .de) [0b11010001] 3 10 ∧
    exec (.pop .de) s = .next { s.popReads with
      sp := s.sp + 2, regs := { s.regs with d := s.popHigh, e := s.popLow } } ∧
    hasFormat (.pop .hl) [0b11100001] 3 10 ∧
    exec (.pop .hl) s = .next { s.popReads with
      sp := s.sp + 2, regs := { s.regs with h := s.popHigh, l := s.popLow } } ∧
    hasFormat .popPsw [0b11110001] 3 10 ∧
    exec .popPsw s = .next { s.popReads with
      sp := s.sp + 2
      regs := { s.regs with a := s.popHigh }
      flags :=
        { cy := decide (s.popLow.toNat % 2 = 1)
          p := decide (s.popLow.toNat / 4 % 2 = 1)
          ac := decide (s.popLow.toNat / 16 % 2 = 1)
          z := decide (s.popLow.toNat / 64 % 2 = 1)
          s := decide (s.popLow.toNat / 128 % 2 = 1) } }

/-- XTHL: the two stack bytes read, then H written at SP + 1 and L at SP (that order is the spec's decision D6, log 20); HL
takes the bytes read, SP is unchanged (R204; stores outside RAM are lost by decision D3, log 25). -/
def Obligations.ExchangeStackResult : Prop :=
  ∀ s : State, s.holds = [] →
    hasFormat .xthl [0b11100011] 5 18 ∧
    ∃ m, exec .xthl s = .next { s.popReads with
        regs := { s.regs with h := s.popHigh, l := s.popLow }
        mem := m
        trace := { kind := .stackWrite, addr := s.sp, data := some s.regs.l } ::
          { kind := .stackWrite, addr := s.sp + 1, data := some s.regs.h } :: s.popReads.trace } ∧
      StoresAt s [(s.sp + 1, s.regs.h), (s.sp, s.regs.l)] m

/-- IN loads A with the byte the environment supplies, in one INPUT cycle, no flag; OUT sends A in one OUTPUT cycle and appends
one event to the output trace; the port number is on both halves of the address (R206, R207, 20_memory R50, R51; decision
D5, log 5, log 6). Every value of the draw is allowed. -/
def Obligations.PortResult : Prop :=
  ∀ (s : State) (port : Byte), s.holds = [] →
    hasFormat (.inPort port) [0b11011011, port] 3 10 ∧
    exec (.inPort port) s = .next { s with
      regs := { s.regs with a := Config.ioIn port s.draws }
      draws := s.draws + 1
      trace := { kind := .input, addr := joinBytes port port, data := some (Config.ioIn port s.draws) } :: s.trace } ∧
    hasFormat (.outPort port) [0b11010011, port] 3 10 ∧
    ∃ t, exec (.outPort port) s = .next t ∧ t.outputs = s.outputs ++ [(port, s.regs.a)] ∧
      t = { s with
        trace := { kind := .output, addr := joinBytes port port, data := some s.regs.a } :: s.trace }

/-- EI sets ei_pending (decision D8, log 21), DI clears INTE and ei_pending, HLT halts after a HALT cycle that shows PC and
transfers no data, NOP does nothing; nothing else changes (R210 to R213, 20_memory R55). -/
def Obligations.ControlResult : Prop :=
  ∀ s : State,
    hasFormat .ei [0b11111011] 1 4 ∧ exec .ei s = .next { s with eiPending := true } ∧
    hasFormat .di [0b11110011] 1 4 ∧ exec .di s = .next { s with inte := false, eiPending := false } ∧
    hasFormat .nop [0b00000000] 1 4 ∧ exec .nop s = .next s ∧
    hasFormat .hlt [0b01110110] 1 7 ∧
    (s.holds = [] → exec .hlt s = .next { s with
      halted := true, trace := { kind := .haltAck, addr := s.pc, data := none } :: s.trace })

/-- An undefined opcode stops the model under UNDEF_OPCODE = Fault with nothing changed (30_encoding R78, decision D1); under
UNDEF_OPCODE = silicon it acts as NOP, JMP, RET or CALL (93 G2, presumed by the spec, log 13). -/
def Obligations.UndefinedOpcodeResult : Prop :=
  ∀ s : State,
    (∀ op, op ∈ undefinedOpcodes → s.platform.undefOpcode = .fault →
      exec (.undefined op) s = .fault (.undefinedOpcode op s)) ∧
    (s.platform.undefOpcode = .silicon → s.holds = [] →
      (∀ op, op ∈ [0x08, 0x10, 0x18, 0x20, 0x28, 0x30, 0x38] → exec (.undefined op) s = .next s) ∧
      Returns (.undefined 0xD9) s ∧
      ∀ (u : State) (target : Word), u = (s.readCycle .memRead s.pc).readCycle .memRead (s.pc + 1) →
        target = joinBytes ((s.readCycle .memRead s.pc).readValue (s.pc + 1)) (s.readValue s.pc) →
          exec (.undefined 0xCB) s = .next { u with pc := target } ∧
          ∀ op, op ∈ [0xDD, 0xED, 0xFD] →
            ∃ m, exec (.undefined op) s = .next { u with
                sp := s.sp - 2
                pc := target
                mem := m
                trace := { kind := .stackWrite, addr := s.sp - 2, data := some (lo (s.pc + 2)) } ::
                  { kind := .stackWrite, addr := s.sp - 1, data := some (hi (s.pc + 2)) } :: u.trace } ∧
              StoresAt s [(s.sp - 1, hi (s.pc + 2)), (s.sp - 2, lo (s.pc + 2))] m)

/-! ### Several instructions, and a hold inside one -/

/-- On a RAM stack a RET after a CALL or RST comes back to the address pushed, and POP PSW after PUSH PSW gives back A and the
flags, with SP as it was (44_branch R183, R185, R187; 45 R201, R203). -/
def Obligations.StackRoundTrip : Prop :=
  ∀ s : State, s.holds = [] → s.mem.wf = true → s.isRam (s.sp - 1) → s.isRam (s.sp - 2) →
    (∀ addr, ∃ t u, exec (.call addr) s = .next t ∧ t.pc = addr ∧ exec .ret t = .next u ∧
      u.pc = s.pc ∧ u.sp = s.sp ∧ u.regs = s.regs ∧ u.flags = s.flags) ∧
    (∀ n, ∃ t u, exec (.rst n) s = .next t ∧ t.pc.toNat = 8 * n.toNat ∧ exec .ret t = .next u ∧
      u.pc = s.pc ∧ u.sp = s.sp ∧ u.regs = s.regs ∧ u.flags = s.flags) ∧
    ∀ (g : Regs) (f : Flags), ∃ t u, exec .pushPsw s = .next t ∧
      exec .popPsw { t with regs := g, flags := f } = .next u ∧
      u.sp = s.sp ∧ u.flags = s.flags ∧ u.regs = { g with a := s.regs.a }

/-- A hold between two machine cycles of one instruction: what the HOLD master writes after the read of INR M is lost at the
same address and kept at another, and LHLD reads H after a write that follows its first read (60_exceptions R266, 20_memory
R54, R58, R60; log 8). -/
def Obligations.HoldInsideInstruction : Prop :=
  ∀ (s : State) (a : Word) (v : Byte), s.holds = [[.write a v]] → s.mem.wf = true → s.isRam a →
    (∀ hl, hl = joinBytes s.regs.h s.regs.l → s.isRam hl →
      ∃ t, exec .inrM s = .next t ∧ t.byteAt hl = s.byteAt hl + 1 ∧ (a ≠ hl → t.byteAt a = v)) ∧
    (∃ t, exec (.lhld (a - 1)) s = .next t ∧ t.regs.h = v ∧ t.byteAt a = v)
end

