-- ==== Sys2Proof/Laws/Bits.lean ====
section
/-! SUPPORT. Halves and concatenations as numbers and as bits. -/

namespace Sys2Proof.Machine

theorem lo_toNat (w : Word) : (lo w).toNat = w.toNat % 256 := by simp [lo]

theorem hi_toNat (w : Word) : (hi w).toNat = w.toNat / 256 := by
  have h := w.isLt
  simp only [hi, BitVec.extractLsb'_toNat, Nat.shiftRight_eq_div_pow]
  omega

theorem joinBytes_toNat (high low : Byte) : (joinBytes high low).toNat = high.toNat * 256 + low.toNat := by
  have h := low.isLt
  simp only [joinBytes, BitVec.toNat_append, Nat.shiftLeft_eq]
  rw [Nat.mul_comm, ← Nat.two_pow_add_eq_or_of_lt h]

@[simp] theorem hi_joinBytes (high low : Byte) : hi (joinBytes high low) = high := by
  apply BitVec.eq_of_toNat_eq
  have h := low.isLt
  rw [hi_toNat, joinBytes_toNat]
  omega

@[simp] theorem lo_joinBytes (high low : Byte) : lo (joinBytes high low) = low := by
  apply BitVec.eq_of_toNat_eq
  have h := low.isLt
  rw [lo_toNat, joinBytes_toNat]
  omega

@[simp] theorem joinBytes_hi_lo (w : Word) : joinBytes (hi w) (lo w) = w := by
  apply BitVec.eq_of_toNat_eq
  rw [joinBytes_toNat, hi_toNat, lo_toNat]
  omega

/-- Equal words have equal halves. -/
theorem joinBytes_inj {a b x y : Byte} (h : joinBytes a b = joinBytes x y) : a = x ∧ b = y := by
  have h1 := congrArg hi h
  have h2 := congrArg lo h
  simp only [hi_joinBytes, lo_joinBytes] at h1 h2
  exact ⟨h1, h2⟩

/-- The target of RST n is 8 n (44_branch R187). -/
theorem restartAddress_toNat (n : BitVec 3) : (restartAddress n).toNat = 8 * n.toNat := by
  revert n
  decide

/-- Two adjacent addresses differ. -/
theorem word_succ_ne (a : Word) : a + 1 ≠ a := by
  intro h
  have := congrArg BitVec.toNat h
  have hl := a.isLt
  simp [BitVec.toNat_add] at this
  omega

theorem word_sub_one_ne_sub_two (a : Word) : a - 1 ≠ a - 2 := by
  intro h
  have := congrArg BitVec.toNat h
  have hl := a.isLt
  simp [BitVec.toNat_sub] at this
  omega

theorem word_toNat_ne {a b : Word} (h : a ≠ b) : a.toNat ≠ b.toNat := fun e => h (BitVec.eq_of_toNat_eq e)

end Sys2Proof.Machine
end

