-- ==== Sys2Proof/Laws/Decode.lean ====
section
/-! SUPPORT. What the decoder answers (spec 30_encoding.md rules R74, R76, R78). -/

namespace Sys2Proof

theorem decodeMisc_wf_operands (op b2 b3 : Byte) : (decodeMisc op b2 b3).wf = (decodeMisc op 0 0).wf := by
  simp only [decodeMisc]
  generalize (lowField op).toNat = x
  generalize (midField op).toNat = y
  generalize regOfCode (midField op) = z
  cases z <;> split <;> (try rfl) <;> split <;> rfl

theorem decodeControl_wf_operands (op b2 b3 : Byte) : (decodeControl op b2 b3).wf = (decodeControl op 0 0).wf := by
  simp only [decodeControl]
  generalize (lowField op).toNat = x
  generalize (midField op).toNat = y
  split <;> rfl

/-- Whether the first byte is a defined opcode does not depend on the other bytes (30_encoding R71). -/
theorem decodeOp_wf_operands (op b2 b3 : Byte) : (decodeOp op b2 b3).wf = (decodeOp op 0 0).wf := by
  simp only [decodeOp]
  generalize (groupField op).toNat = g
  split
  · exact decodeMisc_wf_operands op b2 b3
  · rfl
  · rfl
  · exact decodeControl_wf_operands op b2 b3

/-- Every first byte decodes to a well-formed instruction (30_encoding R76, R78). -/
theorem decodeOp_wf (op b2 b3 : Byte) : (decodeOp op b2 b3).wf = true := by
  rw [decodeOp_wf_operands]
  revert op
  decide +revert

/-- An instruction has one, two or three bytes (30_encoding R71). -/
theorem opLength_range (op : Byte) : opLength op = 1 ∨ opLength op = 2 ∨ opLength op = 3 := by
  revert op
  decide +revert

end Sys2Proof
end

