-- ==== Sys2Proof/Laws/Memory.lean ====
section
/-! SUPPORT. The laws of memory: a read after a write, and that a write keeps the canonical form. -/

namespace Sys2Proof.Machine

@[simp] theorem Memory.read_nil (a : Nat) : Memory.read [] a = Memory.unlisted := rfl

theorem Memory.read_cons (k : Nat) (v : Byte) (m : Memory) (a : Nat) :
    Memory.read ((k, v) :: m) a = if a = k then v else Memory.read m a := rfl

/-- A write leaves every other byte alone, in any list of cells. -/
theorem Memory.read_write_other (m : Memory) {a b : Nat} (v : Byte) (h : b ≠ a) :
    (Memory.write m a v).read b = m.read b := by
  induction m with
  | nil =>
    unfold Memory.write
    split <;> simp [Memory.read_cons, h]
  | cons c m ih =>
    obtain ⟨k, w⟩ := c
    unfold Memory.write
    split
    · split <;> simp [Memory.read_cons, h]
    · split
      · subst a
        split <;> simp [Memory.read_cons, h]
      · simp [Memory.read_cons, ih]

/-- A byte below the first address of the list is unlisted. -/
theorem Memory.read_below {m : Memory} {low a : Nat} (h : m.wfFrom low = true) (ha : a < low) : m.read a = Memory.unlisted := by
  induction m generalizing low with
  | nil => rfl
  | cons c m ih =>
    obtain ⟨k, w⟩ := c
    simp only [Memory.wfFrom, Bool.and_eq_true, decide_eq_true_eq] at h
    rw [Memory.read_cons, if_neg (by omega)]
    exact ih h.2 (by omega)

/-- In the canonical form a byte reads as what was written there last. -/
theorem Memory.read_write_from {m : Memory} {low : Nat} (a : Nat) (v : Byte) (h : m.wfFrom low = true) :
    (Memory.write m a v).read a = v := by
  induction m generalizing low with
  | nil =>
    unfold Memory.write
    split <;> simp [Memory.read_cons, *]
  | cons c m ih =>
    obtain ⟨k, w⟩ := c
    simp only [Memory.wfFrom, Bool.and_eq_true, decide_eq_true_eq] at h
    unfold Memory.write
    split
    · split
      · rw [Memory.read_cons, if_neg (by omega), Memory.read_below h.2 (by omega)]
        simp [*]
      · simp [Memory.read_cons]
    · split
      · split
        · rw [Memory.read_below h.2 (by omega)]
          simp [*]
        · simp [Memory.read_cons]
      · rw [Memory.read_cons, if_neg (by omega)]
        exact ih h.2

theorem Memory.read_write_same {m : Memory} (a : Nat) (v : Byte) (h : m.wf = true) : (Memory.write m a v).read a = v :=
  Memory.read_write_from a v h

/-- A read after a write, in the canonical form. -/
theorem Memory.read_write {m : Memory} (a b : Nat) (v : Byte) (h : m.wf = true) :
    (Memory.write m a v).read b = if b = a then v else m.read b := by
  split
  · next hb => rw [hb, Memory.read_write_same a v h]
  · next hb => exact Memory.read_write_other m v hb

theorem Memory.wfFrom_mono {m : Memory} {low j : Nat} (h : Memory.wfFrom low m = true) (hj : j ≤ low) :
    Memory.wfFrom j m = true := by
  cases m with
  | nil => rfl
  | cons c m =>
    obtain ⟨k, w⟩ := c
    simp only [Memory.wfFrom, Bool.and_eq_true, decide_eq_true_eq] at h ⊢
    exact ⟨⟨⟨by omega, h.1.1.2⟩, h.1.2⟩, h.2⟩

theorem Memory.write_wfFrom {m : Memory} {low : Nat} (a : Nat) (v : Byte) (h : m.wfFrom low = true) (hl : low ≤ a)
    (ha : a < 65536) : (Memory.write m a v).wfFrom low = true := by
  induction m generalizing low with
  | nil =>
    unfold Memory.write
    split
    · rfl
    · simp [Memory.wfFrom, *]
  | cons c m ih =>
    obtain ⟨k, w⟩ := c
    simp only [Memory.wfFrom, Bool.and_eq_true, decide_eq_true_eq] at h
    unfold Memory.write
    split
    · split
      · simp only [Memory.wfFrom, Bool.and_eq_true, decide_eq_true_eq]
        exact h
      · simp only [Memory.wfFrom, Bool.and_eq_true, decide_eq_true_eq]
        exact ⟨⟨⟨hl, ha⟩, by assumption⟩, ⟨⟨by omega, h.1.1.2⟩, h.1.2⟩, h.2⟩
    · split
      · split
        · exact Memory.wfFrom_mono h.2 (by omega)
        · simp only [Memory.wfFrom, Bool.and_eq_true, decide_eq_true_eq]
          exact ⟨⟨⟨hl, ha⟩, by assumption⟩, Memory.wfFrom_mono h.2 (by omega)⟩
      · simp only [Memory.wfFrom, Bool.and_eq_true, decide_eq_true_eq]
        exact ⟨h.1, ih h.2 (by omega)⟩

/-- A write keeps the canonical form. -/
theorem Memory.write_wf {m : Memory} (a : Word) (v : Byte) (h : m.wf = true) : (Memory.write m a.toNat v).wf = true :=
  Memory.write_wfFrom a.toNat v h (Nat.zero_le _) a.isLt

/-- Canonical memories that read alike everywhere are equal. -/
theorem Memory.ext_from {m n : Memory} {low : Nat} (hm : m.wfFrom low = true) (hn : n.wfFrom low = true)
    (h : ∀ a, m.read a = n.read a) : m = n := by
  induction m generalizing n low with
  | nil =>
    cases n with
    | nil => rfl
    | cons c n =>
      obtain ⟨k, w⟩ := c
      simp only [Memory.wfFrom, Bool.and_eq_true, decide_eq_true_eq] at hn
      have := h k
      simp only [Memory.read_nil, Memory.read_cons, if_true] at this
      exact absurd this.symm hn.1.2
  | cons c m ih =>
    obtain ⟨k, w⟩ := c
    cases n with
    | nil =>
      simp only [Memory.wfFrom, Bool.and_eq_true, decide_eq_true_eq] at hm
      have := h k
      simp only [Memory.read_nil, Memory.read_cons, if_true] at this
      exact absurd this hm.1.2
    | cons d n =>
      obtain ⟨j, x⟩ := d
      simp only [Memory.wfFrom, Bool.and_eq_true, decide_eq_true_eq] at hm hn
      have hkj : k = j := by
        rcases Nat.lt_trichotomy k j with hlt | heq | hgt
        · have hk := h k
          rw [Memory.read_cons, if_pos rfl, Memory.read_cons, if_neg (by omega), Memory.read_below hn.2 (by omega)] at hk
          exact absurd hk hm.1.2
        · exact heq
        · have hj := h j
          rw [Memory.read_cons, if_neg (by omega), Memory.read_below hm.2 (by omega), Memory.read_cons, if_pos rfl] at hj
          exact absurd hj.symm hn.1.2
      subst j
      have hw := h k
      simp only [Memory.read_cons, if_true] at hw
      subst x
      have : m = n := by
        refine ih hm.2 hn.2 fun a => ?_
        have ha := h a
        by_cases hak : a = k
        · subst a
          rw [Memory.read_below hm.2 (by omega), Memory.read_below hn.2 (by omega)]
        · rw [Memory.read_cons, Memory.read_cons, if_neg hak, if_neg hak] at ha
          exact ha
      rw [this]

theorem Memory.ext {m n : Memory} (hm : m.wf = true) (hn : n.wf = true) (h : ∀ a, m.read a = n.read a) : m = n :=
  Memory.ext_from hm hn h

@[simp] theorem Memory.wf_nil : Memory.wf [] = true := rfl

end Sys2Proof.Machine
end

