-- ==== Sys2Proof/Laws/State.lean ====
section
/-! SUPPORT. One lemma per field per named update of the state, and what reading a register after writing one gives. -/

namespace Sys2Proof.Machine

/-! ### The single-field updates -/
@[simp] theorem State.setReg_regs (s : State) (r : Reg) (v : Byte) : (s.setReg r v).regs = s.regs.set r v := rfl
@[simp] theorem State.setReg_sp (s : State) (r : Reg) (v : Byte) : (s.setReg r v).sp = s.sp := rfl
@[simp] theorem State.setReg_pc (s : State) (r : Reg) (v : Byte) : (s.setReg r v).pc = s.pc := rfl
@[simp] theorem State.setReg_flags (s : State) (r : Reg) (v : Byte) : (s.setReg r v).flags = s.flags := rfl
@[simp] theorem State.setReg_inte (s : State) (r : Reg) (v : Byte) : (s.setReg r v).inte = s.inte := rfl
@[simp] theorem State.setReg_halted (s : State) (r : Reg) (v : Byte) : (s.setReg r v).halted = s.halted := rfl
@[simp] theorem State.setReg_eiPending (s : State) (r : Reg) (v : Byte) : (s.setReg r v).eiPending = s.eiPending := rfl
@[simp] theorem State.setReg_hlda (s : State) (r : Reg) (v : Byte) : (s.setReg r v).hlda = s.hlda := rfl
@[simp] theorem State.setReg_holds (s : State) (r : Reg) (v : Byte) : (s.setReg r v).holds = s.holds := rfl
@[simp] theorem State.setReg_mem (s : State) (r : Reg) (v : Byte) : (s.setReg r v).mem = s.mem := rfl
@[simp] theorem State.setReg_trace (s : State) (r : Reg) (v : Byte) : (s.setReg r v).trace = s.trace := rfl
@[simp] theorem State.setReg_clock (s : State) (r : Reg) (v : Byte) : (s.setReg r v).clock = s.clock := rfl
@[simp] theorem State.setReg_draws (s : State) (r : Reg) (v : Byte) : (s.setReg r v).draws = s.draws := rfl
@[simp] theorem State.setReg_inputs (s : State) (r : Reg) (v : Byte) : (s.setReg r v).inputs = s.inputs := rfl
@[simp] theorem State.setReg_platform (s : State) (r : Reg) (v : Byte) : (s.setReg r v).platform = s.platform := rfl
@[simp] theorem State.setReg_kindAt (s : State) (r : Reg) (v : Byte) (x : Word) : (s.setReg r v).kindAt x = s.kindAt x := rfl

@[simp] theorem State.setSp_regs (s : State) (v : Word) : (s.setSp v).regs = s.regs := rfl
@[simp] theorem State.setSp_sp (s : State) (v : Word) : (s.setSp v).sp = v := rfl
@[simp] theorem State.setSp_pc (s : State) (v : Word) : (s.setSp v).pc = s.pc := rfl
@[simp] theorem State.setSp_flags (s : State) (v : Word) : (s.setSp v).flags = s.flags := rfl
@[simp] theorem State.setSp_inte (s : State) (v : Word) : (s.setSp v).inte = s.inte := rfl
@[simp] theorem State.setSp_halted (s : State) (v : Word) : (s.setSp v).halted = s.halted := rfl
@[simp] theorem State.setSp_eiPending (s : State) (v : Word) : (s.setSp v).eiPending = s.eiPending := rfl
@[simp] theorem State.setSp_hlda (s : State) (v : Word) : (s.setSp v).hlda = s.hlda := rfl
@[simp] theorem State.setSp_holds (s : State) (v : Word) : (s.setSp v).holds = s.holds := rfl
@[simp] theorem State.setSp_mem (s : State) (v : Word) : (s.setSp v).mem = s.mem := rfl
@[simp] theorem State.setSp_trace (s : State) (v : Word) : (s.setSp v).trace = s.trace := rfl
@[simp] theorem State.setSp_clock (s : State) (v : Word) : (s.setSp v).clock = s.clock := rfl
@[simp] theorem State.setSp_draws (s : State) (v : Word) : (s.setSp v).draws = s.draws := rfl
@[simp] theorem State.setSp_inputs (s : State) (v : Word) : (s.setSp v).inputs = s.inputs := rfl
@[simp] theorem State.setSp_platform (s : State) (v : Word) : (s.setSp v).platform = s.platform := rfl
@[simp] theorem State.setSp_kindAt (s : State) (v : Word) (x : Word) : (s.setSp v).kindAt x = s.kindAt x := rfl

@[simp] theorem State.setPc_regs (s : State) (v : Word) : (s.setPc v).regs = s.regs := rfl
@[simp] theorem State.setPc_sp (s : State) (v : Word) : (s.setPc v).sp = s.sp := rfl
@[simp] theorem State.setPc_pc (s : State) (v : Word) : (s.setPc v).pc = v := rfl
@[simp] theorem State.setPc_flags (s : State) (v : Word) : (s.setPc v).flags = s.flags := rfl
@[simp] theorem State.setPc_inte (s : State) (v : Word) : (s.setPc v).inte = s.inte := rfl
@[simp] theorem State.setPc_halted (s : State) (v : Word) : (s.setPc v).halted = s.halted := rfl
@[simp] theorem State.setPc_eiPending (s : State) (v : Word) : (s.setPc v).eiPending = s.eiPending := rfl
@[simp] theorem State.setPc_hlda (s : State) (v : Word) : (s.setPc v).hlda = s.hlda := rfl
@[simp] theorem State.setPc_holds (s : State) (v : Word) : (s.setPc v).holds = s.holds := rfl
@[simp] theorem State.setPc_mem (s : State) (v : Word) : (s.setPc v).mem = s.mem := rfl
@[simp] theorem State.setPc_trace (s : State) (v : Word) : (s.setPc v).trace = s.trace := rfl
@[simp] theorem State.setPc_clock (s : State) (v : Word) : (s.setPc v).clock = s.clock := rfl
@[simp] theorem State.setPc_draws (s : State) (v : Word) : (s.setPc v).draws = s.draws := rfl
@[simp] theorem State.setPc_inputs (s : State) (v : Word) : (s.setPc v).inputs = s.inputs := rfl
@[simp] theorem State.setPc_platform (s : State) (v : Word) : (s.setPc v).platform = s.platform := rfl
@[simp] theorem State.setPc_kindAt (s : State) (v : Word) (x : Word) : (s.setPc v).kindAt x = s.kindAt x := rfl

@[simp] theorem State.setFlags_regs (s : State) (f : Flags) : (s.setFlags f).regs = s.regs := rfl
@[simp] theorem State.setFlags_sp (s : State) (f : Flags) : (s.setFlags f).sp = s.sp := rfl
@[simp] theorem State.setFlags_pc (s : State) (f : Flags) : (s.setFlags f).pc = s.pc := rfl
@[simp] theorem State.setFlags_flags (s : State) (f : Flags) : (s.setFlags f).flags = f := rfl
@[simp] theorem State.setFlags_inte (s : State) (f : Flags) : (s.setFlags f).inte = s.inte := rfl
@[simp] theorem State.setFlags_halted (s : State) (f : Flags) : (s.setFlags f).halted = s.halted := rfl
@[simp] theorem State.setFlags_eiPending (s : State) (f : Flags) : (s.setFlags f).eiPending = s.eiPending := rfl
@[simp] theorem State.setFlags_hlda (s : State) (f : Flags) : (s.setFlags f).hlda = s.hlda := rfl
@[simp] theorem State.setFlags_holds (s : State) (f : Flags) : (s.setFlags f).holds = s.holds := rfl
@[simp] theorem State.setFlags_mem (s : State) (f : Flags) : (s.setFlags f).mem = s.mem := rfl
@[simp] theorem State.setFlags_trace (s : State) (f : Flags) : (s.setFlags f).trace = s.trace := rfl
@[simp] theorem State.setFlags_clock (s : State) (f : Flags) : (s.setFlags f).clock = s.clock := rfl
@[simp] theorem State.setFlags_draws (s : State) (f : Flags) : (s.setFlags f).draws = s.draws := rfl
@[simp] theorem State.setFlags_inputs (s : State) (f : Flags) : (s.setFlags f).inputs = s.inputs := rfl
@[simp] theorem State.setFlags_platform (s : State) (f : Flags) : (s.setFlags f).platform = s.platform := rfl
@[simp] theorem State.setFlags_kindAt (s : State) (f : Flags) (x : Word) : (s.setFlags f).kindAt x = s.kindAt x := rfl

@[simp] theorem State.setInte_regs (s : State) (v : Bool) : (s.setInte v).regs = s.regs := rfl
@[simp] theorem State.setInte_sp (s : State) (v : Bool) : (s.setInte v).sp = s.sp := rfl
@[simp] theorem State.setInte_pc (s : State) (v : Bool) : (s.setInte v).pc = s.pc := rfl
@[simp] theorem State.setInte_flags (s : State) (v : Bool) : (s.setInte v).flags = s.flags := rfl
@[simp] theorem State.setInte_inte (s : State) (v : Bool) : (s.setInte v).inte = v := rfl
@[simp] theorem State.setInte_halted (s : State) (v : Bool) : (s.setInte v).halted = s.halted := rfl
@[simp] theorem State.setInte_eiPending (s : State) (v : Bool) : (s.setInte v).eiPending = s.eiPending := rfl
@[simp] theorem State.setInte_hlda (s : State) (v : Bool) : (s.setInte v).hlda = s.hlda := rfl
@[simp] theorem State.setInte_holds (s : State) (v : Bool) : (s.setInte v).holds = s.holds := rfl
@[simp] theorem State.setInte_mem (s : State) (v : Bool) : (s.setInte v).mem = s.mem := rfl
@[simp] theorem State.setInte_trace (s : State) (v : Bool) : (s.setInte v).trace = s.trace := rfl
@[simp] theorem State.setInte_clock (s : State) (v : Bool) : (s.setInte v).clock = s.clock := rfl
@[simp] theorem State.setInte_draws (s : State) (v : Bool) : (s.setInte v).draws = s.draws := rfl
@[simp] theorem State.setInte_inputs (s : State) (v : Bool) : (s.setInte v).inputs = s.inputs := rfl
@[simp] theorem State.setInte_platform (s : State) (v : Bool) : (s.setInte v).platform = s.platform := rfl
@[simp] theorem State.setInte_kindAt (s : State) (v : Bool) (x : Word) : (s.setInte v).kindAt x = s.kindAt x := rfl

@[simp] theorem State.setHalted_regs (s : State) (v : Bool) : (s.setHalted v).regs = s.regs := rfl
@[simp] theorem State.setHalted_sp (s : State) (v : Bool) : (s.setHalted v).sp = s.sp := rfl
@[simp] theorem State.setHalted_pc (s : State) (v : Bool) : (s.setHalted v).pc = s.pc := rfl
@[simp] theorem State.setHalted_flags (s : State) (v : Bool) : (s.setHalted v).flags = s.flags := rfl
@[simp] theorem State.setHalted_inte (s : State) (v : Bool) : (s.setHalted v).inte = s.inte := rfl
@[simp] theorem State.setHalted_halted (s : State) (v : Bool) : (s.setHalted v).halted = v := rfl
@[simp] theorem State.setHalted_eiPending (s : State) (v : Bool) : (s.setHalted v).eiPending = s.eiPending := rfl
@[simp] theorem State.setHalted_hlda (s : State) (v : Bool) : (s.setHalted v).hlda = s.hlda := rfl
@[simp] theorem State.setHalted_holds (s : State) (v : Bool) : (s.setHalted v).holds = s.holds := rfl
@[simp] theorem State.setHalted_mem (s : State) (v : Bool) : (s.setHalted v).mem = s.mem := rfl
@[simp] theorem State.setHalted_trace (s : State) (v : Bool) : (s.setHalted v).trace = s.trace := rfl
@[simp] theorem State.setHalted_clock (s : State) (v : Bool) : (s.setHalted v).clock = s.clock := rfl
@[simp] theorem State.setHalted_draws (s : State) (v : Bool) : (s.setHalted v).draws = s.draws := rfl
@[simp] theorem State.setHalted_inputs (s : State) (v : Bool) : (s.setHalted v).inputs = s.inputs := rfl
@[simp] theorem State.setHalted_platform (s : State) (v : Bool) : (s.setHalted v).platform = s.platform := rfl
@[simp] theorem State.setHalted_kindAt (s : State) (v : Bool) (x : Word) : (s.setHalted v).kindAt x = s.kindAt x := rfl

@[simp] theorem State.setEiPending_regs (s : State) (v : Bool) : (s.setEiPending v).regs = s.regs := rfl
@[simp] theorem State.setEiPending_sp (s : State) (v : Bool) : (s.setEiPending v).sp = s.sp := rfl
@[simp] theorem State.setEiPending_pc (s : State) (v : Bool) : (s.setEiPending v).pc = s.pc := rfl
@[simp] theorem State.setEiPending_flags (s : State) (v : Bool) : (s.setEiPending v).flags = s.flags := rfl
@[simp] theorem State.setEiPending_inte (s : State) (v : Bool) : (s.setEiPending v).inte = s.inte := rfl
@[simp] theorem State.setEiPending_halted (s : State) (v : Bool) : (s.setEiPending v).halted = s.halted := rfl
@[simp] theorem State.setEiPending_eiPending (s : State) (v : Bool) : (s.setEiPending v).eiPending = v := rfl
@[simp] theorem State.setEiPending_hlda (s : State) (v : Bool) : (s.setEiPending v).hlda = s.hlda := rfl
@[simp] theorem State.setEiPending_holds (s : State) (v : Bool) : (s.setEiPending v).holds = s.holds := rfl
@[simp] theorem State.setEiPending_mem (s : State) (v : Bool) : (s.setEiPending v).mem = s.mem := rfl
@[simp] theorem State.setEiPending_trace (s : State) (v : Bool) : (s.setEiPending v).trace = s.trace := rfl
@[simp] theorem State.setEiPending_clock (s : State) (v : Bool) : (s.setEiPending v).clock = s.clock := rfl
@[simp] theorem State.setEiPending_draws (s : State) (v : Bool) : (s.setEiPending v).draws = s.draws := rfl
@[simp] theorem State.setEiPending_inputs (s : State) (v : Bool) : (s.setEiPending v).inputs = s.inputs := rfl
@[simp] theorem State.setEiPending_platform (s : State) (v : Bool) : (s.setEiPending v).platform = s.platform := rfl
@[simp] theorem State.setEiPending_kindAt (s : State) (v : Bool) (x : Word) : (s.setEiPending v).kindAt x = s.kindAt x := rfl

@[simp] theorem State.setHlda_regs (s : State) (v : Bool) : (s.setHlda v).regs = s.regs := rfl
@[simp] theorem State.setHlda_sp (s : State) (v : Bool) : (s.setHlda v).sp = s.sp := rfl
@[simp] theorem State.setHlda_pc (s : State) (v : Bool) : (s.setHlda v).pc = s.pc := rfl
@[simp] theorem State.setHlda_flags (s : State) (v : Bool) : (s.setHlda v).flags = s.flags := rfl
@[simp] theorem State.setHlda_inte (s : State) (v : Bool) : (s.setHlda v).inte = s.inte := rfl
@[simp] theorem State.setHlda_halted (s : State) (v : Bool) : (s.setHlda v).halted = s.halted := rfl
@[simp] theorem State.setHlda_eiPending (s : State) (v : Bool) : (s.setHlda v).eiPending = s.eiPending := rfl
@[simp] theorem State.setHlda_hlda (s : State) (v : Bool) : (s.setHlda v).hlda = v := rfl
@[simp] theorem State.setHlda_holds (s : State) (v : Bool) : (s.setHlda v).holds = s.holds := rfl
@[simp] theorem State.setHlda_mem (s : State) (v : Bool) : (s.setHlda v).mem = s.mem := rfl
@[simp] theorem State.setHlda_trace (s : State) (v : Bool) : (s.setHlda v).trace = s.trace := rfl
@[simp] theorem State.setHlda_clock (s : State) (v : Bool) : (s.setHlda v).clock = s.clock := rfl
@[simp] theorem State.setHlda_draws (s : State) (v : Bool) : (s.setHlda v).draws = s.draws := rfl
@[simp] theorem State.setHlda_inputs (s : State) (v : Bool) : (s.setHlda v).inputs = s.inputs := rfl
@[simp] theorem State.setHlda_platform (s : State) (v : Bool) : (s.setHlda v).platform = s.platform := rfl
@[simp] theorem State.setHlda_kindAt (s : State) (v : Bool) (x : Word) : (s.setHlda v).kindAt x = s.kindAt x := rfl

@[simp] theorem State.setHolds_regs (s : State) (v : List (List DmaOp)) : (s.setHolds v).regs = s.regs := rfl
@[simp] theorem State.setHolds_sp (s : State) (v : List (List DmaOp)) : (s.setHolds v).sp = s.sp := rfl
@[simp] theorem State.setHolds_pc (s : State) (v : List (List DmaOp)) : (s.setHolds v).pc = s.pc := rfl
@[simp] theorem State.setHolds_flags (s : State) (v : List (List DmaOp)) : (s.setHolds v).flags = s.flags := rfl
@[simp] theorem State.setHolds_inte (s : State) (v : List (List DmaOp)) : (s.setHolds v).inte = s.inte := rfl
@[simp] theorem State.setHolds_halted (s : State) (v : List (List DmaOp)) : (s.setHolds v).halted = s.halted := rfl
@[simp] theorem State.setHolds_eiPending (s : State) (v : List (List DmaOp)) : (s.setHolds v).eiPending = s.eiPending := rfl
@[simp] theorem State.setHolds_hlda (s : State) (v : List (List DmaOp)) : (s.setHolds v).hlda = s.hlda := rfl
@[simp] theorem State.setHolds_holds (s : State) (v : List (List DmaOp)) : (s.setHolds v).holds = v := rfl
@[simp] theorem State.setHolds_mem (s : State) (v : List (List DmaOp)) : (s.setHolds v).mem = s.mem := rfl
@[simp] theorem State.setHolds_trace (s : State) (v : List (List DmaOp)) : (s.setHolds v).trace = s.trace := rfl
@[simp] theorem State.setHolds_clock (s : State) (v : List (List DmaOp)) : (s.setHolds v).clock = s.clock := rfl
@[simp] theorem State.setHolds_draws (s : State) (v : List (List DmaOp)) : (s.setHolds v).draws = s.draws := rfl
@[simp] theorem State.setHolds_inputs (s : State) (v : List (List DmaOp)) : (s.setHolds v).inputs = s.inputs := rfl
@[simp] theorem State.setHolds_platform (s : State) (v : List (List DmaOp)) : (s.setHolds v).platform = s.platform := rfl
@[simp] theorem State.setHolds_kindAt (s : State) (v : List (List DmaOp)) (x : Word) : (s.setHolds v).kindAt x = s.kindAt x := rfl

@[simp] theorem State.setInputs_regs (s : State) (v : List Env) : (s.setInputs v).regs = s.regs := rfl
@[simp] theorem State.setInputs_sp (s : State) (v : List Env) : (s.setInputs v).sp = s.sp := rfl
@[simp] theorem State.setInputs_pc (s : State) (v : List Env) : (s.setInputs v).pc = s.pc := rfl
@[simp] theorem State.setInputs_flags (s : State) (v : List Env) : (s.setInputs v).flags = s.flags := rfl
@[simp] theorem State.setInputs_inte (s : State) (v : List Env) : (s.setInputs v).inte = s.inte := rfl
@[simp] theorem State.setInputs_halted (s : State) (v : List Env) : (s.setInputs v).halted = s.halted := rfl
@[simp] theorem State.setInputs_eiPending (s : State) (v : List Env) : (s.setInputs v).eiPending = s.eiPending := rfl
@[simp] theorem State.setInputs_hlda (s : State) (v : List Env) : (s.setInputs v).hlda = s.hlda := rfl
@[simp] theorem State.setInputs_holds (s : State) (v : List Env) : (s.setInputs v).holds = s.holds := rfl
@[simp] theorem State.setInputs_mem (s : State) (v : List Env) : (s.setInputs v).mem = s.mem := rfl
@[simp] theorem State.setInputs_trace (s : State) (v : List Env) : (s.setInputs v).trace = s.trace := rfl
@[simp] theorem State.setInputs_clock (s : State) (v : List Env) : (s.setInputs v).clock = s.clock := rfl
@[simp] theorem State.setInputs_draws (s : State) (v : List Env) : (s.setInputs v).draws = s.draws := rfl
@[simp] theorem State.setInputs_inputs (s : State) (v : List Env) : (s.setInputs v).inputs = v := rfl
@[simp] theorem State.setInputs_platform (s : State) (v : List Env) : (s.setInputs v).platform = s.platform := rfl
@[simp] theorem State.setInputs_kindAt (s : State) (v : List Env) (x : Word) : (s.setInputs v).kindAt x = s.kindAt x := rfl

@[simp] theorem State.tick_regs (s : State) (n : Nat) : (s.tick n).regs = s.regs := rfl
@[simp] theorem State.tick_sp (s : State) (n : Nat) : (s.tick n).sp = s.sp := rfl
@[simp] theorem State.tick_pc (s : State) (n : Nat) : (s.tick n).pc = s.pc := rfl
@[simp] theorem State.tick_flags (s : State) (n : Nat) : (s.tick n).flags = s.flags := rfl
@[simp] theorem State.tick_inte (s : State) (n : Nat) : (s.tick n).inte = s.inte := rfl
@[simp] theorem State.tick_halted (s : State) (n : Nat) : (s.tick n).halted = s.halted := rfl
@[simp] theorem State.tick_eiPending (s : State) (n : Nat) : (s.tick n).eiPending = s.eiPending := rfl
@[simp] theorem State.tick_hlda (s : State) (n : Nat) : (s.tick n).hlda = s.hlda := rfl
@[simp] theorem State.tick_holds (s : State) (n : Nat) : (s.tick n).holds = s.holds := rfl
@[simp] theorem State.tick_mem (s : State) (n : Nat) : (s.tick n).mem = s.mem := rfl
@[simp] theorem State.tick_trace (s : State) (n : Nat) : (s.tick n).trace = s.trace := rfl
@[simp] theorem State.tick_clock (s : State) (n : Nat) : (s.tick n).clock = s.clock + n := rfl
@[simp] theorem State.tick_draws (s : State) (n : Nat) : (s.tick n).draws = s.draws := rfl
@[simp] theorem State.tick_inputs (s : State) (n : Nat) : (s.tick n).inputs = s.inputs := rfl
@[simp] theorem State.tick_platform (s : State) (n : Nat) : (s.tick n).platform = s.platform := rfl
@[simp] theorem State.tick_kindAt (s : State) (n : Nat) (x : Word) : (s.tick n).kindAt x = s.kindAt x := rfl

@[simp] theorem State.countDraw_regs (s : State) : (s.countDraw).regs = s.regs := rfl
@[simp] theorem State.countDraw_sp (s : State) : (s.countDraw).sp = s.sp := rfl
@[simp] theorem State.countDraw_pc (s : State) : (s.countDraw).pc = s.pc := rfl
@[simp] theorem State.countDraw_flags (s : State) : (s.countDraw).flags = s.flags := rfl
@[simp] theorem State.countDraw_inte (s : State) : (s.countDraw).inte = s.inte := rfl
@[simp] theorem State.countDraw_halted (s : State) : (s.countDraw).halted = s.halted := rfl
@[simp] theorem State.countDraw_eiPending (s : State) : (s.countDraw).eiPending = s.eiPending := rfl
@[simp] theorem State.countDraw_hlda (s : State) : (s.countDraw).hlda = s.hlda := rfl
@[simp] theorem State.countDraw_holds (s : State) : (s.countDraw).holds = s.holds := rfl
@[simp] theorem State.countDraw_mem (s : State) : (s.countDraw).mem = s.mem := rfl
@[simp] theorem State.countDraw_trace (s : State) : (s.countDraw).trace = s.trace := rfl
@[simp] theorem State.countDraw_clock (s : State) : (s.countDraw).clock = s.clock := rfl
@[simp] theorem State.countDraw_draws (s : State) : (s.countDraw).draws = s.draws + 1 := rfl
@[simp] theorem State.countDraw_inputs (s : State) : (s.countDraw).inputs = s.inputs := rfl
@[simp] theorem State.countDraw_platform (s : State) : (s.countDraw).platform = s.platform := rfl
@[simp] theorem State.countDraw_kindAt (s : State) (x : Word) : (s.countDraw).kindAt x = s.kindAt x := rfl

@[simp] theorem State.store_regs (s : State) (addr : Word) (v : Byte) : (s.store addr v).regs = s.regs := rfl
@[simp] theorem State.store_sp (s : State) (addr : Word) (v : Byte) : (s.store addr v).sp = s.sp := rfl
@[simp] theorem State.store_pc (s : State) (addr : Word) (v : Byte) : (s.store addr v).pc = s.pc := rfl
@[simp] theorem State.store_flags (s : State) (addr : Word) (v : Byte) : (s.store addr v).flags = s.flags := rfl
@[simp] theorem State.store_inte (s : State) (addr : Word) (v : Byte) : (s.store addr v).inte = s.inte := rfl
@[simp] theorem State.store_halted (s : State) (addr : Word) (v : Byte) : (s.store addr v).halted = s.halted := rfl
@[simp] theorem State.store_eiPending (s : State) (addr : Word) (v : Byte) : (s.store addr v).eiPending = s.eiPending := rfl
@[simp] theorem State.store_hlda (s : State) (addr : Word) (v : Byte) : (s.store addr v).hlda = s.hlda := rfl
@[simp] theorem State.store_holds (s : State) (addr : Word) (v : Byte) : (s.store addr v).holds = s.holds := rfl
@[simp] theorem State.store_mem (s : State) (addr : Word) (v : Byte) : (s.store addr v).mem = s.mem.write addr.toNat v := rfl
@[simp] theorem State.store_trace (s : State) (addr : Word) (v : Byte) : (s.store addr v).trace = s.trace := rfl
@[simp] theorem State.store_clock (s : State) (addr : Word) (v : Byte) : (s.store addr v).clock = s.clock := rfl
@[simp] theorem State.store_draws (s : State) (addr : Word) (v : Byte) : (s.store addr v).draws = s.draws := rfl
@[simp] theorem State.store_inputs (s : State) (addr : Word) (v : Byte) : (s.store addr v).inputs = s.inputs := rfl
@[simp] theorem State.store_platform (s : State) (addr : Word) (v : Byte) : (s.store addr v).platform = s.platform := rfl
@[simp] theorem State.store_kindAt (s : State) (addr : Word) (v : Byte) (x : Word) : (s.store addr v).kindAt x = s.kindAt x := rfl

/-! ### A register pair written -/

@[simp] theorem State.setPair_pc (s : State) (rp : Pair) (v : Word) : (s.setPair rp v).pc = s.pc := by cases rp <;> rfl
@[simp] theorem State.setPair_flags (s : State) (rp : Pair) (v : Word) : (s.setPair rp v).flags = s.flags := by cases rp <;> rfl
@[simp] theorem State.setPair_inte (s : State) (rp : Pair) (v : Word) : (s.setPair rp v).inte = s.inte := by cases rp <;> rfl
@[simp] theorem State.setPair_halted (s : State) (rp : Pair) (v : Word) : (s.setPair rp v).halted = s.halted := by cases rp <;> rfl
@[simp] theorem State.setPair_eiPending (s : State) (rp : Pair) (v : Word) : (s.setPair rp v).eiPending = s.eiPending := by cases rp <;> rfl
@[simp] theorem State.setPair_hlda (s : State) (rp : Pair) (v : Word) : (s.setPair rp v).hlda = s.hlda := by cases rp <;> rfl
@[simp] theorem State.setPair_holds (s : State) (rp : Pair) (v : Word) : (s.setPair rp v).holds = s.holds := by cases rp <;> rfl
@[simp] theorem State.setPair_mem (s : State) (rp : Pair) (v : Word) : (s.setPair rp v).mem = s.mem := by cases rp <;> rfl
@[simp] theorem State.setPair_trace (s : State) (rp : Pair) (v : Word) : (s.setPair rp v).trace = s.trace := by cases rp <;> rfl
@[simp] theorem State.setPair_clock (s : State) (rp : Pair) (v : Word) : (s.setPair rp v).clock = s.clock := by cases rp <;> rfl
@[simp] theorem State.setPair_draws (s : State) (rp : Pair) (v : Word) : (s.setPair rp v).draws = s.draws := by cases rp <;> rfl
@[simp] theorem State.setPair_inputs (s : State) (rp : Pair) (v : Word) : (s.setPair rp v).inputs = s.inputs := by cases rp <;> rfl
@[simp] theorem State.setPair_platform (s : State) (rp : Pair) (v : Word) : (s.setPair rp v).platform = s.platform := by cases rp <;> rfl
@[simp] theorem State.setPair_kindAt (s : State) (rp : Pair) (v : Word) (x : Word) :
    (s.setPair rp v).kindAt x = s.kindAt x := by cases rp <;> rfl

/-! ### Registers -/

/-- A register read after a write of one (10_state R12). -/
theorem Regs.get_set (g : Regs) (r q : Reg) (v : Byte) : (g.set r v).get q = if q = r then v else g.get q := by
  cases r <;> cases q <;> rfl

@[simp] theorem Regs.get_set_same (g : Regs) (r : Reg) (v : Byte) : (g.set r v).get r = v := by cases r <;> rfl

theorem Regs.get_set_other (g : Regs) {r q : Reg} (v : Byte) (h : q ≠ r) : (g.set r v).get q = g.get q := by
  rw [Regs.get_set, if_neg h]

/-- Two register files that agree on every register are equal. -/
theorem Regs.ext_get {g k : Regs} (h : ∀ q, g.get q = k.get q) : g = k := by
  have hb := h .b
  have hc := h .c
  have hd := h .d
  have he := h .e
  have hh := h .h
  have hl := h .l
  have ha := h .a
  cases g
  cases k
  simp only [Regs.get] at *
  simp [*]

@[simp] theorem State.reg_eq (s : State) (r : Reg) : s.reg r = s.regs.get r := rfl

theorem State.hl_eq (s : State) : s.hl = joinBytes s.regs.h s.regs.l := rfl

theorem State.pair_sp (s : State) : s.pair .sp = s.sp := rfl

/-! ### What depends on the registers only -/

/-- A pair read back after a write of it is what was written (10_state R13). -/
theorem State.pair_setPair (s : State) (rp : Pair) (v : Word) : (s.setPair rp v).pair rp = v := by
  cases rp
  case sp => rfl
  all_goals
    simp only [State.setPair, State.setReg, State.pair, Regs.set, joinBytes, hi, lo]
    ext k hk
    simp only [BitVec.getElem_append, BitVec.getElem_extractLsb']
    split <;> simp only [← BitVec.getLsbD_eq_getElem] <;> congr 1 <;> omega

end Sys2Proof.Machine
end

