-- ==== Sys2Proof/Laws/Ops.lean ====
section
/-! SUPPORT. What each shared operation of Machine/Ops.lean can do: the fields it leaves alone, the machine cycles it adds, the
memory it changes, and what it comes to where no hold falls inside the instruction. -/

namespace Sys2Proof.Machine

/-! ### The HOLD master -/

@[simp] theorem State.dmaAccess_regs (s : State) (op : DmaOp) : (s.dmaAccess op).regs = s.regs := by
  cases op
  · rfl
  · simp only [State.dmaAccess]; split <;> rfl
@[simp] theorem State.dmaAccess_sp (s : State) (op : DmaOp) : (s.dmaAccess op).sp = s.sp := by
  cases op
  · rfl
  · simp only [State.dmaAccess]; split <;> rfl
@[simp] theorem State.dmaAccess_pc (s : State) (op : DmaOp) : (s.dmaAccess op).pc = s.pc := by
  cases op
  · rfl
  · simp only [State.dmaAccess]; split <;> rfl
@[simp] theorem State.dmaAccess_flags (s : State) (op : DmaOp) : (s.dmaAccess op).flags = s.flags := by
  cases op
  · rfl
  · simp only [State.dmaAccess]; split <;> rfl
@[simp] theorem State.dmaAccess_inte (s : State) (op : DmaOp) : (s.dmaAccess op).inte = s.inte := by
  cases op
  · rfl
  · simp only [State.dmaAccess]; split <;> rfl
@[simp] theorem State.dmaAccess_halted (s : State) (op : DmaOp) : (s.dmaAccess op).halted = s.halted := by
  cases op
  · rfl
  · simp only [State.dmaAccess]; split <;> rfl
@[simp] theorem State.dmaAccess_eiPending (s : State) (op : DmaOp) : (s.dmaAccess op).eiPending = s.eiPending := by
  cases op
  · rfl
  · simp only [State.dmaAccess]; split <;> rfl
@[simp] theorem State.dmaAccess_hlda (s : State) (op : DmaOp) : (s.dmaAccess op).hlda = s.hlda := by
  cases op
  · rfl
  · simp only [State.dmaAccess]; split <;> rfl
@[simp] theorem State.dmaAccess_holds (s : State) (op : DmaOp) : (s.dmaAccess op).holds = s.holds := by
  cases op
  · rfl
  · simp only [State.dmaAccess]; split <;> rfl
@[simp] theorem State.dmaAccess_trace (s : State) (op : DmaOp) : (s.dmaAccess op).trace = s.trace := by
  cases op
  · rfl
  · simp only [State.dmaAccess]; split <;> rfl
@[simp] theorem State.dmaAccess_clock (s : State) (op : DmaOp) : (s.dmaAccess op).clock = s.clock := by
  cases op
  · rfl
  · simp only [State.dmaAccess]; split <;> rfl
@[simp] theorem State.dmaAccess_draws (s : State) (op : DmaOp) : (s.dmaAccess op).draws = s.draws := by
  cases op
  · rfl
  · simp only [State.dmaAccess]; split <;> rfl
@[simp] theorem State.dmaAccess_inputs (s : State) (op : DmaOp) : (s.dmaAccess op).inputs = s.inputs := by
  cases op
  · rfl
  · simp only [State.dmaAccess]; split <;> rfl
@[simp] theorem State.dmaAccess_platform (s : State) (op : DmaOp) : (s.dmaAccess op).platform = s.platform := by
  cases op
  · rfl
  · simp only [State.dmaAccess]; split <;> rfl
@[simp] theorem State.dmaAccess_kindAt (s : State) (op : DmaOp) (x : Word) :
    (s.dmaAccess op).kindAt x = s.kindAt x := by simp only [State.kindAt, State.dmaAccess_platform]

@[simp] theorem State.dmaAccesses_regs (s : State) (ops : List DmaOp) : (s.dmaAccesses ops).regs = s.regs := by
  induction ops generalizing s with
  | nil => rfl
  | cons op ops ih => simp [State.dmaAccesses, ih]
@[simp] theorem State.dmaAccesses_sp (s : State) (ops : List DmaOp) : (s.dmaAccesses ops).sp = s.sp := by
  induction ops generalizing s with
  | nil => rfl
  | cons op ops ih => simp [State.dmaAccesses, ih]
@[simp] theorem State.dmaAccesses_pc (s : State) (ops : List DmaOp) : (s.dmaAccesses ops).pc = s.pc := by
  induction ops generalizing s with
  | nil => rfl
  | cons op ops ih => simp [State.dmaAccesses, ih]
@[simp] theorem State.dmaAccesses_flags (s : State) (ops : List DmaOp) : (s.dmaAccesses ops).flags = s.flags := by
  induction ops generalizing s with
  | nil => rfl
  | cons op ops ih => simp [State.dmaAccesses, ih]
@[simp] theorem State.dmaAccesses_inte (s : State) (ops : List DmaOp) : (s.dmaAccesses ops).inte = s.inte := by
  induction ops generalizing s with
  | nil => rfl
  | cons op ops ih => simp [State.dmaAccesses, ih]
@[simp] theorem State.dmaAccesses_halted (s : State) (ops : List DmaOp) : (s.dmaAccesses ops).halted = s.halted := by
  induction ops generalizing s with
  | nil => rfl
  | cons op ops ih => simp [State.dmaAccesses, ih]
@[simp] theorem State.dmaAccesses_eiPending (s : State) (ops : List DmaOp) : (s.dmaAccesses ops).eiPending = s.eiPending := by
  induction ops generalizing s with
  | nil => rfl
  | cons op ops ih => simp [State.dmaAccesses, ih]
@[simp] theorem State.dmaAccesses_hlda (s : State) (ops : List DmaOp) : (s.dmaAccesses ops).hlda = s.hlda := by
  induction ops generalizing s with
  | nil => rfl
  | cons op ops ih => simp [State.dmaAccesses, ih]
@[simp] theorem State.dmaAccesses_holds (s : State) (ops : List DmaOp) : (s.dmaAccesses ops).holds = s.holds := by
  induction ops generalizing s with
  | nil => rfl
  | cons op ops ih => simp [State.dmaAccesses, ih]
@[simp] theorem State.dmaAccesses_trace (s : State) (ops : List DmaOp) : (s.dmaAccesses ops).trace = s.trace := by
  induction ops generalizing s with
  | nil => rfl
  | cons op ops ih => simp [State.dmaAccesses, ih]
@[simp] theorem State.dmaAccesses_clock (s : State) (ops : List DmaOp) : (s.dmaAccesses ops).clock = s.clock := by
  induction ops generalizing s with
  | nil => rfl
  | cons op ops ih => simp [State.dmaAccesses, ih]
@[simp] theorem State.dmaAccesses_draws (s : State) (ops : List DmaOp) : (s.dmaAccesses ops).draws = s.draws := by
  induction ops generalizing s with
  | nil => rfl
  | cons op ops ih => simp [State.dmaAccesses, ih]
@[simp] theorem State.dmaAccesses_inputs (s : State) (ops : List DmaOp) : (s.dmaAccesses ops).inputs = s.inputs := by
  induction ops generalizing s with
  | nil => rfl
  | cons op ops ih => simp [State.dmaAccesses, ih]
@[simp] theorem State.dmaAccesses_platform (s : State) (ops : List DmaOp) : (s.dmaAccesses ops).platform = s.platform := by
  induction ops generalizing s with
  | nil => rfl
  | cons op ops ih => simp [State.dmaAccesses, ih]
@[simp] theorem State.dmaAccesses_kindAt (s : State) (ops : List DmaOp) (x : Word) :
    (s.dmaAccesses ops).kindAt x = s.kindAt x := by simp only [State.kindAt, State.dmaAccesses_platform]

@[simp] theorem State.serveHold_regs (s : State) : (s.serveHold).regs = s.regs := by
  unfold State.serveHold
  split <;> simp
@[simp] theorem State.serveHold_sp (s : State) : (s.serveHold).sp = s.sp := by
  unfold State.serveHold
  split <;> simp
@[simp] theorem State.serveHold_pc (s : State) : (s.serveHold).pc = s.pc := by
  unfold State.serveHold
  split <;> simp
@[simp] theorem State.serveHold_flags (s : State) : (s.serveHold).flags = s.flags := by
  unfold State.serveHold
  split <;> simp
@[simp] theorem State.serveHold_inte (s : State) : (s.serveHold).inte = s.inte := by
  unfold State.serveHold
  split <;> simp
@[simp] theorem State.serveHold_halted (s : State) : (s.serveHold).halted = s.halted := by
  unfold State.serveHold
  split <;> simp
@[simp] theorem State.serveHold_eiPending (s : State) : (s.serveHold).eiPending = s.eiPending := by
  unfold State.serveHold
  split <;> simp
@[simp] theorem State.serveHold_hlda (s : State) : (s.serveHold).hlda = s.hlda := by
  unfold State.serveHold
  split <;> simp
@[simp] theorem State.serveHold_trace (s : State) : (s.serveHold).trace = s.trace := by
  unfold State.serveHold
  split <;> simp
@[simp] theorem State.serveHold_clock (s : State) : (s.serveHold).clock = s.clock := by
  unfold State.serveHold
  split <;> simp
@[simp] theorem State.serveHold_draws (s : State) : (s.serveHold).draws = s.draws := by
  unfold State.serveHold
  split <;> simp
@[simp] theorem State.serveHold_inputs (s : State) : (s.serveHold).inputs = s.inputs := by
  unfold State.serveHold
  split <;> simp
@[simp] theorem State.serveHold_platform (s : State) : (s.serveHold).platform = s.platform := by
  unfold State.serveHold
  split <;> simp
@[simp] theorem State.serveHold_kindAt (s : State) (x : Word) :
    (s.serveHold).kindAt x = s.kindAt x := by simp only [State.kindAt, State.serveHold_platform]

/-- No hold is due, so none is served. -/
theorem State.serveHold_none {s : State} (h : s.holds = []) : s.serveHold = s := by
  unfold State.serveHold
  rw [h]

/-- A byte that is not RAM is not changed by the HOLD master. -/
theorem State.dmaAccesses_byteAt (s : State) (ops : List DmaOp) {a : Word} (h : s.kindAt a ≠ .ram) :
    (s.dmaAccesses ops).byteAt a = s.byteAt a := by
  induction ops generalizing s with
  | nil => rfl
  | cons op ops ih =>
    rw [State.dmaAccesses, ih _ (by simpa using h)]
    cases op with
    | read _ => rfl
    | write addr v =>
      simp only [State.dmaAccess]
      split
      · next hr =>
        refine Memory.read_write_other _ _ (word_toNat_ne ?_)
        rintro rfl
        exact h hr
      · rfl

theorem State.dmaAccess_wf (s : State) (op : DmaOp) (h : s.mem.wf = true) : (s.dmaAccess op).mem.wf = true := by
  cases op with
  | read _ => exact h
  | write addr v =>
    simp only [State.dmaAccess]
    split
    · exact Memory.write_wf addr v h
    · exact h

theorem State.dmaAccesses_wf (s : State) (ops : List DmaOp) (h : s.mem.wf = true) : (s.dmaAccesses ops).mem.wf = true := by
  induction ops generalizing s with
  | nil => exact h
  | cons op ops ih => exact ih _ (s.dmaAccess_wf op h)

/-- What the HOLD master leaves in a byte: its last write there, where RAM answers. -/
theorem State.dmaAccesses_read (s : State) (ops : List DmaOp) (a : Word) (h : s.mem.wf = true) (hr : s.isRam a) :
    (s.dmaAccesses ops).byteAt a = (lastWrite ops a).getD (s.byteAt a) := by
  induction ops generalizing s with
  | nil => rfl
  | cons op ops ih =>
    rw [State.dmaAccesses, ih _ (s.dmaAccess_wf op h) (by simpa [State.isRam] using hr)]
    cases op with
    | read _ => rfl
    | write addr v =>
      simp only [lastWrite, State.dmaAccess]
      by_cases ha : addr = a
      · subst addr
        rw [if_pos (show s.kindAt a = .ram from hr)]
        cases lastWrite ops a <;> simp [State.byteAt, State.store, Memory.read_write_same _ _ h]
      · have hn : (s.mem.write addr.toNat v).read a.toNat = s.mem.read a.toNat :=
          Memory.read_write_other _ _ (word_toNat_ne (Ne.symm ha))
        cases lastWrite ops a <;> simp only [if_neg ha, Option.or, Option.getD, State.byteAt] <;> (split <;> simp [State.store, hn])

theorem State.serveHold_byteAt (s : State) {a : Word} (h : s.kindAt a ≠ .ram) : s.serveHold.byteAt a = s.byteAt a := by
  unfold State.serveHold
  split
  · rfl
  · exact State.dmaAccesses_byteAt _ _ h

theorem State.serveHold_wf (s : State) (h : s.mem.wf = true) : s.serveHold.mem.wf = true := by
  unfold State.serveHold
  split
  · exact h
  · exact State.dmaAccesses_wf _ _ h

/-! ### A machine cycle -/

@[simp] theorem State.record_regs (s : State) (k : CycleKind) (addr : Word) (data : Option Byte) : (s.record k addr data).regs = s.regs := by
  simp [State.record]
@[simp] theorem State.record_sp (s : State) (k : CycleKind) (addr : Word) (data : Option Byte) : (s.record k addr data).sp = s.sp := by
  simp [State.record]
@[simp] theorem State.record_pc (s : State) (k : CycleKind) (addr : Word) (data : Option Byte) : (s.record k addr data).pc = s.pc := by
  simp [State.record]
@[simp] theorem State.record_flags (s : State) (k : CycleKind) (addr : Word) (data : Option Byte) : (s.record k addr data).flags = s.flags := by
  simp [State.record]
@[simp] theorem State.record_inte (s : State) (k : CycleKind) (addr : Word) (data : Option Byte) : (s.record k addr data).inte = s.inte := by
  simp [State.record]
@[simp] theorem State.record_halted (s : State) (k : CycleKind) (addr : Word) (data : Option Byte) : (s.record k addr data).halted = s.halted := by
  simp [State.record]
@[simp] theorem State.record_eiPending (s : State) (k : CycleKind) (addr : Word) (data : Option Byte) : (s.record k addr data).eiPending = s.eiPending := by
  simp [State.record]
@[simp] theorem State.record_hlda (s : State) (k : CycleKind) (addr : Word) (data : Option Byte) : (s.record k addr data).hlda = s.hlda := by
  simp [State.record]
@[simp] theorem State.record_clock (s : State) (k : CycleKind) (addr : Word) (data : Option Byte) : (s.record k addr data).clock = s.clock := by
  simp [State.record]
@[simp] theorem State.record_draws (s : State) (k : CycleKind) (addr : Word) (data : Option Byte) : (s.record k addr data).draws = s.draws := by
  simp [State.record]
@[simp] theorem State.record_inputs (s : State) (k : CycleKind) (addr : Word) (data : Option Byte) : (s.record k addr data).inputs = s.inputs := by
  simp [State.record]
@[simp] theorem State.record_platform (s : State) (k : CycleKind) (addr : Word) (data : Option Byte) : (s.record k addr data).platform = s.platform := by
  simp [State.record]
@[simp] theorem State.record_kindAt (s : State) (k : CycleKind) (addr : Word) (data : Option Byte) (x : Word) :
    (s.record k addr data).kindAt x = s.kindAt x := by simp only [State.kindAt, State.record_platform]

@[simp] theorem State.record_trace (s : State) (k : CycleKind) (addr : Word) (data : Option Byte) :
    (s.record k addr data).trace = { kind := k, addr := addr, data := data } :: s.trace := by simp [State.record]

/-- A machine cycle where no hold is due. -/
theorem State.record_quiet {s : State} (h : s.holds = []) (k : CycleKind) (addr : Word) (data : Option Byte) :
    s.record k addr data = { s with trace := { kind := k, addr := addr, data := data } :: s.trace } :=
  State.serveHold_none h

theorem State.record_byteAt (s : State) (k : CycleKind) (addr : Word) (data : Option Byte) {a : Word}
    (h : s.kindAt a ≠ .ram) : (s.record k addr data).byteAt a = s.byteAt a :=
  State.serveHold_byteAt { s with trace := { kind := k, addr := addr, data := data } :: s.trace } h

theorem State.record_wf (s : State) (k : CycleKind) (addr : Word) (data : Option Byte) (h : s.mem.wf = true) :
    (s.record k addr data).mem.wf = true :=
  State.serveHold_wf { s with trace := { kind := k, addr := addr, data := data } :: s.trace } h

/-! ### Reading memory -/

@[simp] theorem State.afterRead_regs (s : State) (addr : Word) : (s.afterRead addr).regs = s.regs := by
  unfold State.afterRead
  split <;> rfl
@[simp] theorem State.afterRead_sp (s : State) (addr : Word) : (s.afterRead addr).sp = s.sp := by
  unfold State.afterRead
  split <;> rfl
@[simp] theorem State.afterRead_pc (s : State) (addr : Word) : (s.afterRead addr).pc = s.pc := by
  unfold State.afterRead
  split <;> rfl
@[simp] theorem State.afterRead_flags (s : State) (addr : Word) : (s.afterRead addr).flags = s.flags := by
  unfold State.afterRead
  split <;> rfl
@[simp] theorem State.afterRead_inte (s : State) (addr : Word) : (s.afterRead addr).inte = s.inte := by
  unfold State.afterRead
  split <;> rfl
@[simp] theorem State.afterRead_halted (s : State) (addr : Word) : (s.afterRead addr).halted = s.halted := by
  unfold State.afterRead
  split <;> rfl
@[simp] theorem State.afterRead_eiPending (s : State) (addr : Word) : (s.afterRead addr).eiPending = s.eiPending := by
  unfold State.afterRead
  split <;> rfl
@[simp] theorem State.afterRead_hlda (s : State) (addr : Word) : (s.afterRead addr).hlda = s.hlda := by
  unfold State.afterRead
  split <;> rfl
@[simp] theorem State.afterRead_holds (s : State) (addr : Word) : (s.afterRead addr).holds = s.holds := by
  unfold State.afterRead
  split <;> rfl
@[simp] theorem State.afterRead_mem (s : State) (addr : Word) : (s.afterRead addr).mem = s.mem := by
  unfold State.afterRead
  split <;> rfl
@[simp] theorem State.afterRead_trace (s : State) (addr : Word) : (s.afterRead addr).trace = s.trace := by
  unfold State.afterRead
  split <;> rfl
@[simp] theorem State.afterRead_clock (s : State) (addr : Word) : (s.afterRead addr).clock = s.clock := by
  unfold State.afterRead
  split <;> rfl
@[simp] theorem State.afterRead_inputs (s : State) (addr : Word) : (s.afterRead addr).inputs = s.inputs := by
  unfold State.afterRead
  split <;> rfl
@[simp] theorem State.afterRead_platform (s : State) (addr : Word) : (s.afterRead addr).platform = s.platform := by
  unfold State.afterRead
  split <;> rfl
@[simp] theorem State.afterRead_kindAt (s : State) (addr : Word) (x : Word) :
    (s.afterRead addr).kindAt x = s.kindAt x := by simp only [State.kindAt, State.afterRead_platform]

/-- A read where RAM or ROM answers finds the content of memory (20_memory R44). -/
theorem State.readValue_memory {s : State} {a : Word} (h : s.holdsByte a) : s.readValue a = s.byteAt a := by
  unfold State.readValue State.byteAt
  rcases h with h | h <;> rw [h]

/-- A read where RAM or ROM answers uses no free value. -/
theorem State.afterRead_memory {s : State} {a : Word} (h : s.holdsByte a) : s.afterRead a = s := by
  unfold State.afterRead
  rcases h with h | h <;> rw [h]

theorem State.afterRead_draws_le (s : State) (a : Word) : s.draws ≤ (s.afterRead a).draws := by
  unfold State.afterRead
  split <;> simp

@[simp] theorem State.memRead_fst (s : State) (k : CycleKind) (a : Word) : (s.memRead k a).1 = s.readValue a := rfl

@[simp] theorem State.memRead_trace (s : State) (k : CycleKind) (a : Word) :
    (s.memRead k a).2.trace = { kind := k, addr := a, data := some (s.readValue a) } :: s.trace := by simp [State.memRead]

@[simp] theorem State.memRead_draws (s : State) (k : CycleKind) (a : Word) :
    (s.memRead k a).2.draws = (s.afterRead a).draws := by simp [State.memRead]

@[simp] theorem State.memRead_regs (s : State) (k : CycleKind) (addr : Word) : ((s.memRead k addr).2).regs = s.regs := by
  simp [State.memRead]
@[simp] theorem State.memRead_sp (s : State) (k : CycleKind) (addr : Word) : ((s.memRead k addr).2).sp = s.sp := by
  simp [State.memRead]
@[simp] theorem State.memRead_pc (s : State) (k : CycleKind) (addr : Word) : ((s.memRead k addr).2).pc = s.pc := by
  simp [State.memRead]
@[simp] theorem State.memRead_flags (s : State) (k : CycleKind) (addr : Word) : ((s.memRead k addr).2).flags = s.flags := by
  simp [State.memRead]
@[simp] theorem State.memRead_inte (s : State) (k : CycleKind) (addr : Word) : ((s.memRead k addr).2).inte = s.inte := by
  simp [State.memRead]
@[simp] theorem State.memRead_halted (s : State) (k : CycleKind) (addr : Word) : ((s.memRead k addr).2).halted = s.halted := by
  simp [State.memRead]
@[simp] theorem State.memRead_eiPending (s : State) (k : CycleKind) (addr : Word) : ((s.memRead k addr).2).eiPending = s.eiPending := by
  simp [State.memRead]
@[simp] theorem State.memRead_hlda (s : State) (k : CycleKind) (addr : Word) : ((s.memRead k addr).2).hlda = s.hlda := by
  simp [State.memRead]
@[simp] theorem State.memRead_clock (s : State) (k : CycleKind) (addr : Word) : ((s.memRead k addr).2).clock = s.clock := by
  simp [State.memRead]
@[simp] theorem State.memRead_inputs (s : State) (k : CycleKind) (addr : Word) : ((s.memRead k addr).2).inputs = s.inputs := by
  simp [State.memRead]
@[simp] theorem State.memRead_platform (s : State) (k : CycleKind) (addr : Word) : ((s.memRead k addr).2).platform = s.platform := by
  simp [State.memRead]
@[simp] theorem State.memRead_kindAt (s : State) (k : CycleKind) (addr : Word) (x : Word) :
    ((s.memRead k addr).2).kindAt x = s.kindAt x := by simp only [State.kindAt, State.memRead_platform]

theorem State.memRead_byteAt (s : State) (k : CycleKind) (addr : Word) {a : Word} (h : s.kindAt a ≠ .ram) :
    (s.memRead k addr).2.byteAt a = s.byteAt a := by
  unfold State.memRead
  rw [State.record_byteAt _ _ _ _ (by simpa using h)]
  simp [State.byteAt]

theorem State.memRead_wf (s : State) (k : CycleKind) (a : Word) (h : s.mem.wf = true) : (s.memRead k a).2.mem.wf = true :=
  State.record_wf _ _ _ _ (by simpa using h)

/-- A read where no hold is due (20_memory R44). -/
theorem State.memRead_quiet {s : State} (h : s.holds = []) (k : CycleKind) (a : Word) :
    s.memRead k a =
      (s.readValue a,
        { s with
          trace := { kind := k, addr := a, data := some (s.readValue a) } :: s.trace
          draws := (s.afterRead a).draws }) := by
  unfold State.memRead
  rw [State.record_quiet (by simpa using h)]
  congr 1
  unfold State.afterRead
  split <;> rfl

/-! ### Writing memory -/

@[simp] theorem State.memWrite_regs (s : State) (k : CycleKind) (addr : Word) (v : Byte) : (s.memWrite k addr v).regs = s.regs := by
  unfold State.memWrite
  split <;> simp
@[simp] theorem State.memWrite_sp (s : State) (k : CycleKind) (addr : Word) (v : Byte) : (s.memWrite k addr v).sp = s.sp := by
  unfold State.memWrite
  split <;> simp
@[simp] theorem State.memWrite_pc (s : State) (k : CycleKind) (addr : Word) (v : Byte) : (s.memWrite k addr v).pc = s.pc := by
  unfold State.memWrite
  split <;> simp
@[simp] theorem State.memWrite_flags (s : State) (k : CycleKind) (addr : Word) (v : Byte) : (s.memWrite k addr v).flags = s.flags := by
  unfold State.memWrite
  split <;> simp
@[simp] theorem State.memWrite_inte (s : State) (k : CycleKind) (addr : Word) (v : Byte) : (s.memWrite k addr v).inte = s.inte := by
  unfold State.memWrite
  split <;> simp
@[simp] theorem State.memWrite_halted (s : State) (k : CycleKind) (addr : Word) (v : Byte) : (s.memWrite k addr v).halted = s.halted := by
  unfold State.memWrite
  split <;> simp
@[simp] theorem State.memWrite_eiPending (s : State) (k : CycleKind) (addr : Word) (v : Byte) : (s.memWrite k addr v).eiPending = s.eiPending := by
  unfold State.memWrite
  split <;> simp
@[simp] theorem State.memWrite_hlda (s : State) (k : CycleKind) (addr : Word) (v : Byte) : (s.memWrite k addr v).hlda = s.hlda := by
  unfold State.memWrite
  split <;> simp
@[simp] theorem State.memWrite_clock (s : State) (k : CycleKind) (addr : Word) (v : Byte) : (s.memWrite k addr v).clock = s.clock := by
  unfold State.memWrite
  split <;> simp
@[simp] theorem State.memWrite_draws (s : State) (k : CycleKind) (addr : Word) (v : Byte) : (s.memWrite k addr v).draws = s.draws := by
  unfold State.memWrite
  split <;> simp
@[simp] theorem State.memWrite_inputs (s : State) (k : CycleKind) (addr : Word) (v : Byte) : (s.memWrite k addr v).inputs = s.inputs := by
  unfold State.memWrite
  split <;> simp
@[simp] theorem State.memWrite_platform (s : State) (k : CycleKind) (addr : Word) (v : Byte) : (s.memWrite k addr v).platform = s.platform := by
  unfold State.memWrite
  split <;> simp
@[simp] theorem State.memWrite_kindAt (s : State) (k : CycleKind) (addr : Word) (v : Byte) (x : Word) :
    (s.memWrite k addr v).kindAt x = s.kindAt x := by simp only [State.kindAt, State.memWrite_platform]

@[simp] theorem State.memWrite_trace (s : State) (k : CycleKind) (a : Word) (v : Byte) :
    (s.memWrite k a v).trace = { kind := k, addr := a, data := some v } :: s.trace := by
  unfold State.memWrite
  split <;> simp

theorem State.memWrite_byteAt (s : State) (k : CycleKind) (addr : Word) (v : Byte) {a : Word} (h : s.kindAt a ≠ .ram) :
    (s.memWrite k addr v).byteAt a = s.byteAt a := by
  unfold State.memWrite
  split
  · next hr =>
    rw [State.record_byteAt _ _ _ _ (by simpa using h)]
    refine Memory.read_write_other _ _ (word_toNat_ne ?_)
    rintro rfl
    exact h hr
  all_goals exact State.record_byteAt _ _ _ _ h

theorem State.memWrite_wf (s : State) (k : CycleKind) (a : Word) (v : Byte) (h : s.mem.wf = true) :
    (s.memWrite k a v).mem.wf = true := by
  unfold State.memWrite
  split
  · exact State.record_wf _ _ _ _ (Memory.write_wf a v h)
  all_goals exact State.record_wf _ _ _ _ h

/-- Memory after a write: RAM takes the byte, anything else ignores it (20_memory R45). -/
def State.memAfterWrite (s : State) (a : Word) (v : Byte) : Memory :=
  if s.kindAt a = .ram then s.mem.write a.toNat v else s.mem

/-- A write where no hold is due (20_memory R45). -/
theorem State.memWrite_quiet {s : State} (h : s.holds = []) (k : CycleKind) (a : Word) (v : Byte) :
    s.memWrite k a v =
      { s with
        mem := s.memAfterWrite a v
        trace := { kind := k, addr := a, data := some v } :: s.trace } := by
  unfold State.memWrite State.memAfterWrite
  split
  · next hr =>
    rw [if_pos hr, State.record_quiet (s := s.store a v) h]
    rfl
  all_goals
    next hr =>
      rw [if_neg (by rw [hr]; decide), State.record_quiet h]

theorem State.memAfterWrite_wf (s : State) (a : Word) (v : Byte) (h : s.mem.wf = true) :
    (s.memAfterWrite a v).wf = true := by
  unfold State.memAfterWrite
  split
  · exact Memory.write_wf a v h
  · exact h

/-- Every byte but the one written keeps its content. -/
theorem State.memAfterWrite_other (s : State) {a b : Word} (v : Byte) (h : b ≠ a) :
    (s.memAfterWrite a v).read b.toNat = s.byteAt b := by
  unfold State.memAfterWrite
  split
  · exact Memory.read_write_other _ _ (word_toNat_ne h)
  · rfl

theorem State.memAfterWrite_ram {s : State} {a : Word} (v : Byte) (hw : s.mem.wf = true) (h : s.isRam a) :
    (s.memAfterWrite a v).read a.toNat = v := by
  unfold State.memAfterWrite
  rw [if_pos (show s.kindAt a = .ram from h)]
  exact Memory.read_write_same _ _ hw

theorem State.memAfterWrite_notRam {s : State} {a : Word} (v : Byte) (h : ¬ s.isRam a) : s.memAfterWrite a v = s.mem :=
  if_neg h

/-! ### Where no hold is due: memory and the holds, one access at a time -/

theorem State.record_mem_quiet {s : State} (h : s.holds = []) (k : CycleKind) (a : Word) (d : Option Byte) :
    (s.record k a d).mem = s.mem := by rw [State.record_quiet h]

theorem State.record_holds_quiet {s : State} (h : s.holds = []) (k : CycleKind) (a : Word) (d : Option Byte) :
    (s.record k a d).holds = [] := by rw [State.record_quiet h]; exact h

theorem State.memRead_mem_quiet {s : State} (h : s.holds = []) (k : CycleKind) (a : Word) :
    (s.memRead k a).2.mem = s.mem := by rw [State.memRead_quiet h]

theorem State.memRead_holds_quiet {s : State} (h : s.holds = []) (k : CycleKind) (a : Word) :
    (s.memRead k a).2.holds = [] := by rw [State.memRead_quiet h]; exact h

theorem State.memWrite_holds_quiet {s : State} (h : s.holds = []) (k : CycleKind) (a : Word) (v : Byte) :
    (s.memWrite k a v).holds = [] := by rw [State.memWrite_quiet h]; exact h

theorem State.memWrite_other_quiet {s : State} (h : s.holds = []) (k : CycleKind) (a : Word) (v : Byte) {b : Word}
    (hb : b ≠ a) : (s.memWrite k a v).mem.read b.toNat = s.mem.read b.toNat := by
  rw [State.memWrite_quiet h]
  exact State.memAfterWrite_other s v hb

/-! ### The address of M -/

@[simp] theorem State.memRead_hl (s : State) (k : CycleKind) (a : Word) : (s.memRead k a).2.hl = s.hl := by
  simp [State.hl_eq]

@[simp] theorem State.memWrite_hl (s : State) (k : CycleKind) (a : Word) (v : Byte) : (s.memWrite k a v).hl = s.hl := by
  simp [State.hl_eq]

@[simp] theorem State.setFlags_hl (s : State) (f : Flags) : (s.setFlags f).hl = s.hl := rfl

@[simp] theorem State.setPc_hl (s : State) (v : Word) : (s.setPc v).hl = s.hl := rfl

/-! ### Input and output -/

@[simp] theorem State.ioRead_regs (s : State) (port : Byte) : ((s.ioRead port).2).regs = s.regs := by
  simp [State.ioRead]
@[simp] theorem State.ioRead_sp (s : State) (port : Byte) : ((s.ioRead port).2).sp = s.sp := by
  simp [State.ioRead]
@[simp] theorem State.ioRead_pc (s : State) (port : Byte) : ((s.ioRead port).2).pc = s.pc := by
  simp [State.ioRead]
@[simp] theorem State.ioRead_flags (s : State) (port : Byte) : ((s.ioRead port).2).flags = s.flags := by
  simp [State.ioRead]
@[simp] theorem State.ioRead_inte (s : State) (port : Byte) : ((s.ioRead port).2).inte = s.inte := by
  simp [State.ioRead]
@[simp] theorem State.ioRead_halted (s : State) (port : Byte) : ((s.ioRead port).2).halted = s.halted := by
  simp [State.ioRead]
@[simp] theorem State.ioRead_eiPending (s : State) (port : Byte) : ((s.ioRead port).2).eiPending = s.eiPending := by
  simp [State.ioRead]
@[simp] theorem State.ioRead_hlda (s : State) (port : Byte) : ((s.ioRead port).2).hlda = s.hlda := by
  simp [State.ioRead]
@[simp] theorem State.ioRead_clock (s : State) (port : Byte) : ((s.ioRead port).2).clock = s.clock := by
  simp [State.ioRead]
@[simp] theorem State.ioRead_inputs (s : State) (port : Byte) : ((s.ioRead port).2).inputs = s.inputs := by
  simp [State.ioRead]
@[simp] theorem State.ioRead_platform (s : State) (port : Byte) : ((s.ioRead port).2).platform = s.platform := by
  simp [State.ioRead]
@[simp] theorem State.ioRead_kindAt (s : State) (port : Byte) (x : Word) :
    ((s.ioRead port).2).kindAt x = s.kindAt x := by simp only [State.kindAt, State.ioRead_platform]

@[simp] theorem State.ioWrite_regs (s : State) (port v : Byte) : (s.ioWrite port v).regs = s.regs := by
  simp [State.ioWrite]
@[simp] theorem State.ioWrite_sp (s : State) (port v : Byte) : (s.ioWrite port v).sp = s.sp := by
  simp [State.ioWrite]
@[simp] theorem State.ioWrite_pc (s : State) (port v : Byte) : (s.ioWrite port v).pc = s.pc := by
  simp [State.ioWrite]
@[simp] theorem State.ioWrite_flags (s : State) (port v : Byte) : (s.ioWrite port v).flags = s.flags := by
  simp [State.ioWrite]
@[simp] theorem State.ioWrite_inte (s : State) (port v : Byte) : (s.ioWrite port v).inte = s.inte := by
  simp [State.ioWrite]
@[simp] theorem State.ioWrite_halted (s : State) (port v : Byte) : (s.ioWrite port v).halted = s.halted := by
  simp [State.ioWrite]
@[simp] theorem State.ioWrite_eiPending (s : State) (port v : Byte) : (s.ioWrite port v).eiPending = s.eiPending := by
  simp [State.ioWrite]
@[simp] theorem State.ioWrite_hlda (s : State) (port v : Byte) : (s.ioWrite port v).hlda = s.hlda := by
  simp [State.ioWrite]
@[simp] theorem State.ioWrite_clock (s : State) (port v : Byte) : (s.ioWrite port v).clock = s.clock := by
  simp [State.ioWrite]
@[simp] theorem State.ioWrite_draws (s : State) (port v : Byte) : (s.ioWrite port v).draws = s.draws := by
  simp [State.ioWrite]
@[simp] theorem State.ioWrite_inputs (s : State) (port v : Byte) : (s.ioWrite port v).inputs = s.inputs := by
  simp [State.ioWrite]
@[simp] theorem State.ioWrite_platform (s : State) (port v : Byte) : (s.ioWrite port v).platform = s.platform := by
  simp [State.ioWrite]
@[simp] theorem State.ioWrite_kindAt (s : State) (port v : Byte) (x : Word) :
    (s.ioWrite port v).kindAt x = s.kindAt x := by simp only [State.kindAt, State.ioWrite_platform]

@[simp] theorem State.ioRead_trace (s : State) (port : Byte) :
    (s.ioRead port).2.trace =
      { kind := .input, addr := portAddress port, data := some (Config.ioIn port s.draws) } :: s.trace := by
  simp [State.ioRead]

@[simp] theorem State.ioRead_draws (s : State) (port : Byte) : (s.ioRead port).2.draws = s.draws + 1 := by
  simp [State.ioRead]

@[simp] theorem State.ioWrite_trace (s : State) (port v : Byte) :
    (s.ioWrite port v).trace = { kind := .output, addr := portAddress port, data := some v } :: s.trace := by
  simp [State.ioWrite]

/-! ### Fetching an instruction's bytes -/

@[simp] theorem State.fetchByte_regs (s : State) (k : CycleKind) : ((s.fetchByte k).2).regs = s.regs := by
  simp [State.fetchByte]
@[simp] theorem State.fetchByte_sp (s : State) (k : CycleKind) : ((s.fetchByte k).2).sp = s.sp := by
  simp [State.fetchByte]
@[simp] theorem State.fetchByte_flags (s : State) (k : CycleKind) : ((s.fetchByte k).2).flags = s.flags := by
  simp [State.fetchByte]
@[simp] theorem State.fetchByte_inte (s : State) (k : CycleKind) : ((s.fetchByte k).2).inte = s.inte := by
  simp [State.fetchByte]
@[simp] theorem State.fetchByte_halted (s : State) (k : CycleKind) : ((s.fetchByte k).2).halted = s.halted := by
  simp [State.fetchByte]
@[simp] theorem State.fetchByte_eiPending (s : State) (k : CycleKind) : ((s.fetchByte k).2).eiPending = s.eiPending := by
  simp [State.fetchByte]
@[simp] theorem State.fetchByte_hlda (s : State) (k : CycleKind) : ((s.fetchByte k).2).hlda = s.hlda := by
  simp [State.fetchByte]
@[simp] theorem State.fetchByte_clock (s : State) (k : CycleKind) : ((s.fetchByte k).2).clock = s.clock := by
  simp [State.fetchByte]
@[simp] theorem State.fetchByte_inputs (s : State) (k : CycleKind) : ((s.fetchByte k).2).inputs = s.inputs := by
  simp [State.fetchByte]
@[simp] theorem State.fetchByte_platform (s : State) (k : CycleKind) : ((s.fetchByte k).2).platform = s.platform := by
  simp [State.fetchByte]
@[simp] theorem State.fetchByte_kindAt (s : State) (k : CycleKind) (x : Word) :
    ((s.fetchByte k).2).kindAt x = s.kindAt x := by simp only [State.kindAt, State.fetchByte_platform]

@[simp] theorem State.fetchByte_pc (s : State) (k : CycleKind) : (s.fetchByte k).2.pc = s.pc + 1 := by
  simp [State.fetchByte]

@[simp] theorem State.fetchByte_fst (s : State) (k : CycleKind) : (s.fetchByte k).1 = s.readValue s.pc := rfl

@[simp] theorem State.fetchByte_trace (s : State) (k : CycleKind) :
    (s.fetchByte k).2.trace = { kind := k, addr := s.pc, data := some (s.readValue s.pc) } :: s.trace := by
  simp [State.fetchByte]

theorem State.fetchByte_byteAt (s : State) (k : CycleKind) {a : Word} (h : s.kindAt a ≠ .ram) :
    (s.fetchByte k).2.byteAt a = s.byteAt a := State.memRead_byteAt s k s.pc h

theorem State.fetchByte_wf (s : State) (k : CycleKind) (h : s.mem.wf = true) : (s.fetchByte k).2.mem.wf = true :=
  State.memRead_wf s k s.pc h

@[simp] theorem State.fetchWord_regs (s : State) : (s.fetchWord.2).regs = s.regs := by
  simp [State.fetchWord]
@[simp] theorem State.fetchWord_sp (s : State) : (s.fetchWord.2).sp = s.sp := by
  simp [State.fetchWord]
@[simp] theorem State.fetchWord_flags (s : State) : (s.fetchWord.2).flags = s.flags := by
  simp [State.fetchWord]
@[simp] theorem State.fetchWord_inte (s : State) : (s.fetchWord.2).inte = s.inte := by
  simp [State.fetchWord]
@[simp] theorem State.fetchWord_halted (s : State) : (s.fetchWord.2).halted = s.halted := by
  simp [State.fetchWord]
@[simp] theorem State.fetchWord_eiPending (s : State) : (s.fetchWord.2).eiPending = s.eiPending := by
  simp [State.fetchWord]
@[simp] theorem State.fetchWord_hlda (s : State) : (s.fetchWord.2).hlda = s.hlda := by
  simp [State.fetchWord]
@[simp] theorem State.fetchWord_clock (s : State) : (s.fetchWord.2).clock = s.clock := by
  simp [State.fetchWord]
@[simp] theorem State.fetchWord_inputs (s : State) : (s.fetchWord.2).inputs = s.inputs := by
  simp [State.fetchWord]
@[simp] theorem State.fetchWord_platform (s : State) : (s.fetchWord.2).platform = s.platform := by
  simp [State.fetchWord]
@[simp] theorem State.fetchWord_kindAt (s : State) (x : Word) :
    (s.fetchWord.2).kindAt x = s.kindAt x := by simp only [State.kindAt, State.fetchWord_platform]

@[simp] theorem State.fetchWord_pc (s : State) : s.fetchWord.2.pc = s.pc + 1 + 1 := by simp [State.fetchWord]

theorem State.fetchWord_byteAt (s : State) {a : Word} (h : s.kindAt a ≠ .ram) : s.fetchWord.2.byteAt a = s.byteAt a :=
  (State.fetchByte_byteAt _ _ (by simpa using h)).trans (State.fetchByte_byteAt s _ h)

theorem State.fetchWord_wf (s : State) (h : s.mem.wf = true) : s.fetchWord.2.mem.wf = true :=
  State.fetchByte_wf _ _ (State.fetchByte_wf _ _ h)

/-- The machine cycles that fetch bytes 2 and 3. -/
theorem State.fetchWord_cycles (s : State) :
    ∃ c1 c2, s.fetchWord.2.trace = c2 :: c1 :: s.trace ∧ c1.kind = .memRead ∧ c2.kind = .memRead := by
  simp [State.fetchWord]

@[simp] theorem State.fetchInstr_regs (s : State) : (s.fetchInstr.2).regs = s.regs := by
  unfold State.fetchInstr
  dsimp only
  split <;> simp
@[simp] theorem State.fetchInstr_sp (s : State) : (s.fetchInstr.2).sp = s.sp := by
  unfold State.fetchInstr
  dsimp only
  split <;> simp
@[simp] theorem State.fetchInstr_flags (s : State) : (s.fetchInstr.2).flags = s.flags := by
  unfold State.fetchInstr
  dsimp only
  split <;> simp
@[simp] theorem State.fetchInstr_inte (s : State) : (s.fetchInstr.2).inte = s.inte := by
  unfold State.fetchInstr
  dsimp only
  split <;> simp
@[simp] theorem State.fetchInstr_halted (s : State) : (s.fetchInstr.2).halted = s.halted := by
  unfold State.fetchInstr
  dsimp only
  split <;> simp
@[simp] theorem State.fetchInstr_eiPending (s : State) : (s.fetchInstr.2).eiPending = s.eiPending := by
  unfold State.fetchInstr
  dsimp only
  split <;> simp
@[simp] theorem State.fetchInstr_hlda (s : State) : (s.fetchInstr.2).hlda = s.hlda := by
  unfold State.fetchInstr
  dsimp only
  split <;> simp
@[simp] theorem State.fetchInstr_clock (s : State) : (s.fetchInstr.2).clock = s.clock := by
  unfold State.fetchInstr
  dsimp only
  split <;> simp
@[simp] theorem State.fetchInstr_inputs (s : State) : (s.fetchInstr.2).inputs = s.inputs := by
  unfold State.fetchInstr
  dsimp only
  split <;> simp
@[simp] theorem State.fetchInstr_platform (s : State) : (s.fetchInstr.2).platform = s.platform := by
  unfold State.fetchInstr
  dsimp only
  split <;> simp
@[simp] theorem State.fetchInstr_kindAt (s : State) (x : Word) :
    (s.fetchInstr.2).kindAt x = s.kindAt x := by simp only [State.kindAt, State.fetchInstr_platform]

theorem State.fetchInstr_byteAt (s : State) {a : Word} (h : s.kindAt a ≠ .ram) :
    s.fetchInstr.2.byteAt a = s.byteAt a := by
  unfold State.fetchInstr
  dsimp only
  split
  · exact (State.fetchByte_byteAt _ _ (by simpa using h)).trans (State.fetchByte_byteAt s _ h)
  · exact (State.fetchWord_byteAt _ (by simpa using h)).trans (State.fetchByte_byteAt s _ h)
  · exact State.fetchByte_byteAt s _ h

theorem State.fetchInstr_wf (s : State) (h : s.mem.wf = true) : s.fetchInstr.2.mem.wf = true := by
  unfold State.fetchInstr
  dsimp only
  split
  · exact State.fetchByte_wf _ _ (State.fetchByte_wf _ _ h)
  · exact State.fetchWord_wf _ (State.fetchByte_wf _ _ h)
  · exact State.fetchByte_wf _ _ h

/-! ### The stack -/

@[simp] theorem State.pushWord_regs (s : State) (w : Word) : (s.pushWord w).regs = s.regs := by
  simp [State.pushWord]
@[simp] theorem State.pushWord_pc (s : State) (w : Word) : (s.pushWord w).pc = s.pc := by
  simp [State.pushWord]
@[simp] theorem State.pushWord_flags (s : State) (w : Word) : (s.pushWord w).flags = s.flags := by
  simp [State.pushWord]
@[simp] theorem State.pushWord_inte (s : State) (w : Word) : (s.pushWord w).inte = s.inte := by
  simp [State.pushWord]
@[simp] theorem State.pushWord_halted (s : State) (w : Word) : (s.pushWord w).halted = s.halted := by
  simp [State.pushWord]
@[simp] theorem State.pushWord_eiPending (s : State) (w : Word) : (s.pushWord w).eiPending = s.eiPending := by
  simp [State.pushWord]
@[simp] theorem State.pushWord_hlda (s : State) (w : Word) : (s.pushWord w).hlda = s.hlda := by
  simp [State.pushWord]
@[simp] theorem State.pushWord_clock (s : State) (w : Word) : (s.pushWord w).clock = s.clock := by
  simp [State.pushWord]
@[simp] theorem State.pushWord_draws (s : State) (w : Word) : (s.pushWord w).draws = s.draws := by
  simp [State.pushWord]
@[simp] theorem State.pushWord_inputs (s : State) (w : Word) : (s.pushWord w).inputs = s.inputs := by
  simp [State.pushWord]
@[simp] theorem State.pushWord_platform (s : State) (w : Word) : (s.pushWord w).platform = s.platform := by
  simp [State.pushWord]
@[simp] theorem State.pushWord_kindAt (s : State) (w : Word) (x : Word) :
    (s.pushWord w).kindAt x = s.kindAt x := by simp only [State.kindAt, State.pushWord_platform]

@[simp] theorem State.pushWord_sp (s : State) (w : Word) : (s.pushWord w).sp = s.sp - 2 := by simp [State.pushWord]

@[simp] theorem State.pushWord_trace (s : State) (w : Word) :
    (s.pushWord w).trace =
      { kind := .stackWrite, addr := s.sp - 2, data := some (lo w) } ::
        { kind := .stackWrite, addr := s.sp - 1, data := some (hi w) } :: s.trace := by simp [State.pushWord]

theorem State.pushWord_byteAt (s : State) (w : Word) {a : Word} (h : s.kindAt a ≠ .ram) :
    (s.pushWord w).byteAt a = s.byteAt a :=
  (State.memWrite_byteAt _ _ _ _ (by simpa using h)).trans (State.memWrite_byteAt s _ _ _ h)

theorem State.pushWord_wf (s : State) (w : Word) (h : s.mem.wf = true) : (s.pushWord w).mem.wf = true :=
  State.memWrite_wf _ _ _ _ (State.memWrite_wf _ _ _ _ h)

/-- Memory after a push: the high byte at SP - 1, the low byte at SP - 2, where RAM answers (45 R200). -/
def State.memAfterPush (s : State) (w : Word) : Memory :=
  State.memAfterWrite { s with mem := s.memAfterWrite (s.sp - 1) (hi w) } (s.sp - 2) (lo w)

/-- A push where no hold is due (45 R200). -/
theorem State.pushWord_quiet {s : State} (h : s.holds = []) (w : Word) :
    s.pushWord w =
      { s with
        sp := s.sp - 2
        mem := s.memAfterPush w
        trace := { kind := .stackWrite, addr := s.sp - 2, data := some (lo w) } ::
          { kind := .stackWrite, addr := s.sp - 1, data := some (hi w) } :: s.trace } := by
  unfold State.pushWord
  rw [State.memWrite_quiet h, State.memWrite_quiet (by exact h)]
  rfl

theorem State.memAfterPush_wf (s : State) (w : Word) (h : s.mem.wf = true) : (s.memAfterPush w).wf = true :=
  State.memAfterWrite_wf _ _ _ (State.memAfterWrite_wf _ _ _ h)

/-- Every byte but the two below the stack pointer keeps its content. -/
theorem State.memAfterPush_other (s : State) (w : Word) {a : Word} (h1 : a ≠ s.sp - 1) (h2 : a ≠ s.sp - 2) :
    (s.memAfterPush w).read a.toNat = s.byteAt a := by
  unfold State.memAfterPush
  rw [State.memAfterWrite_other _ _ h2]
  exact State.memAfterWrite_other s _ h1

theorem State.memAfterPush_high {s : State} (w : Word) (hw : s.mem.wf = true) (h : s.isRam (s.sp - 1)) :
    (s.memAfterPush w).read (s.sp - 1).toNat = hi w := by
  unfold State.memAfterPush
  rw [State.memAfterWrite_other _ _ (word_sub_one_ne_sub_two s.sp)]
  exact State.memAfterWrite_ram _ hw h

theorem State.memAfterPush_low {s : State} (w : Word) (hw : s.mem.wf = true) (h : s.isRam (s.sp - 2)) :
    (s.memAfterPush w).read (s.sp - 2).toNat = lo w :=
  State.memAfterWrite_ram _ (State.memAfterWrite_wf _ _ _ hw) h

/-- Where the stack is not RAM the byte pushed is lost (20_memory R45). -/
theorem State.memAfterPush_notRam (s : State) (w : Word) {a : Word} (h : ¬ s.isRam a) :
    (s.memAfterPush w).read a.toNat = s.byteAt a := by
  unfold State.memAfterPush
  by_cases h2 : a = s.sp - 2
  · subst a
    rw [State.memAfterWrite_notRam (s := { s with mem := s.memAfterWrite (s.sp - 1) (hi w) }) _ h]
    exact State.memAfterWrite_other s _ (word_sub_one_ne_sub_two s.sp).symm
  · rw [State.memAfterWrite_other _ _ h2]
    by_cases h1 : a = s.sp - 1
    · subst a
      show (s.memAfterWrite (s.sp - 1) (hi w)).read (s.sp - 1).toNat = s.byteAt (s.sp - 1)
      rw [State.memAfterWrite_notRam _ h]
      rfl
    · exact State.memAfterWrite_other s _ h1

@[simp] theorem State.popWord_regs (s : State) : (s.popWord.2).regs = s.regs := by
  simp [State.popWord]
@[simp] theorem State.popWord_pc (s : State) : (s.popWord.2).pc = s.pc := by
  simp [State.popWord]
@[simp] theorem State.popWord_flags (s : State) : (s.popWord.2).flags = s.flags := by
  simp [State.popWord]
@[simp] theorem State.popWord_inte (s : State) : (s.popWord.2).inte = s.inte := by
  simp [State.popWord]
@[simp] theorem State.popWord_halted (s : State) : (s.popWord.2).halted = s.halted := by
  simp [State.popWord]
@[simp] theorem State.popWord_eiPending (s : State) : (s.popWord.2).eiPending = s.eiPending := by
  simp [State.popWord]
@[simp] theorem State.popWord_hlda (s : State) : (s.popWord.2).hlda = s.hlda := by
  simp [State.popWord]
@[simp] theorem State.popWord_clock (s : State) : (s.popWord.2).clock = s.clock := by
  simp [State.popWord]
@[simp] theorem State.popWord_inputs (s : State) : (s.popWord.2).inputs = s.inputs := by
  simp [State.popWord]
@[simp] theorem State.popWord_platform (s : State) : (s.popWord.2).platform = s.platform := by
  simp [State.popWord]
@[simp] theorem State.popWord_kindAt (s : State) (x : Word) :
    (s.popWord.2).kindAt x = s.kindAt x := by simp only [State.kindAt, State.popWord_platform]

@[simp] theorem State.popWord_sp (s : State) : s.popWord.2.sp = s.sp + 2 := by simp [State.popWord]

/-- The machine cycles of a pop. -/
theorem State.popWord_cycles (s : State) :
    ∃ c1 c2, s.popWord.2.trace = c2 :: c1 :: s.trace ∧ c1.kind = .stackRead ∧ c2.kind = .stackRead := by
  simp [State.popWord]

theorem State.popWord_byteAt (s : State) {a : Word} (h : s.kindAt a ≠ .ram) : s.popWord.2.byteAt a = s.byteAt a :=
  (State.memRead_byteAt _ _ _ (by simpa using h)).trans (State.memRead_byteAt s _ _ h)

theorem State.popWord_wf (s : State) (h : s.mem.wf = true) : s.popWord.2.mem.wf = true :=
  State.memRead_wf _ _ _ (State.memRead_wf _ _ _ h)

/-- A pop from memory where no hold is due (45 R202). -/
theorem State.popWord_quiet {s : State} (h : s.holds = []) (h0 : s.holdsByte s.sp) (h1 : s.holdsByte (s.sp + 1)) :
    s.popWord =
      (joinBytes (s.byteAt (s.sp + 1)) (s.byteAt s.sp),
        { s with
          sp := s.sp + 2
          trace := { kind := .stackRead, addr := s.sp + 1, data := some (s.byteAt (s.sp + 1)) } ::
            { kind := .stackRead, addr := s.sp, data := some (s.byteAt s.sp) } :: s.trace }) := by
  unfold State.popWord
  rw [State.memRead_quiet h, State.readValue_memory h0, State.afterRead_memory h0]
  dsimp only
  rw [State.memRead_quiet (by exact h), State.readValue_memory (by exact h1), State.afterRead_memory (by exact h1)]
  rfl

/-! ### Taking an interrupt, RESET -/

@[simp] theorem State.intByte_regs (s : State) (k : CycleKind) (b : Option Byte) : ((s.intByte k b).2).regs = s.regs := by
  unfold State.intByte
  split <;> simp
@[simp] theorem State.intByte_sp (s : State) (k : CycleKind) (b : Option Byte) : ((s.intByte k b).2).sp = s.sp := by
  unfold State.intByte
  split <;> simp
@[simp] theorem State.intByte_pc (s : State) (k : CycleKind) (b : Option Byte) : ((s.intByte k b).2).pc = s.pc := by
  unfold State.intByte
  split <;> simp
@[simp] theorem State.intByte_flags (s : State) (k : CycleKind) (b : Option Byte) : ((s.intByte k b).2).flags = s.flags := by
  unfold State.intByte
  split <;> simp
@[simp] theorem State.intByte_inte (s : State) (k : CycleKind) (b : Option Byte) : ((s.intByte k b).2).inte = s.inte := by
  unfold State.intByte
  split <;> simp
@[simp] theorem State.intByte_halted (s : State) (k : CycleKind) (b : Option Byte) : ((s.intByte k b).2).halted = s.halted := by
  unfold State.intByte
  split <;> simp
@[simp] theorem State.intByte_eiPending (s : State) (k : CycleKind) (b : Option Byte) : ((s.intByte k b).2).eiPending = s.eiPending := by
  unfold State.intByte
  split <;> simp
@[simp] theorem State.intByte_hlda (s : State) (k : CycleKind) (b : Option Byte) : ((s.intByte k b).2).hlda = s.hlda := by
  unfold State.intByte
  split <;> simp
@[simp] theorem State.intByte_clock (s : State) (k : CycleKind) (b : Option Byte) : ((s.intByte k b).2).clock = s.clock := by
  unfold State.intByte
  split <;> simp
@[simp] theorem State.intByte_inputs (s : State) (k : CycleKind) (b : Option Byte) : ((s.intByte k b).2).inputs = s.inputs := by
  unfold State.intByte
  split <;> simp
@[simp] theorem State.intByte_platform (s : State) (k : CycleKind) (b : Option Byte) : ((s.intByte k b).2).platform = s.platform := by
  unfold State.intByte
  split <;> simp
@[simp] theorem State.intByte_kindAt (s : State) (k : CycleKind) (b : Option Byte) (x : Word) :
    ((s.intByte k b).2).kindAt x = s.kindAt x := by simp only [State.kindAt, State.intByte_platform]

@[simp] theorem State.acknowledge_regs (s : State) : (s.acknowledge).regs = s.regs := rfl
@[simp] theorem State.acknowledge_sp (s : State) : (s.acknowledge).sp = s.sp := rfl
@[simp] theorem State.acknowledge_pc (s : State) : (s.acknowledge).pc = s.pc := rfl
@[simp] theorem State.acknowledge_flags (s : State) : (s.acknowledge).flags = s.flags := rfl
@[simp] theorem State.acknowledge_hlda (s : State) : (s.acknowledge).hlda = s.hlda := rfl
@[simp] theorem State.acknowledge_holds (s : State) : (s.acknowledge).holds = s.holds := rfl
@[simp] theorem State.acknowledge_mem (s : State) : (s.acknowledge).mem = s.mem := rfl
@[simp] theorem State.acknowledge_trace (s : State) : (s.acknowledge).trace = s.trace := rfl
@[simp] theorem State.acknowledge_clock (s : State) : (s.acknowledge).clock = s.clock := rfl
@[simp] theorem State.acknowledge_draws (s : State) : (s.acknowledge).draws = s.draws := rfl
@[simp] theorem State.acknowledge_inputs (s : State) : (s.acknowledge).inputs = s.inputs := rfl
@[simp] theorem State.acknowledge_platform (s : State) : (s.acknowledge).platform = s.platform := rfl
@[simp] theorem State.acknowledge_kindAt (s : State) (x : Word) :
    (s.acknowledge).kindAt x = s.kindAt x := by simp only [State.kindAt, State.acknowledge_platform]

@[simp] theorem State.resetEvent_regs (s : State) : (s.resetEvent).regs = s.regs := rfl
@[simp] theorem State.resetEvent_sp (s : State) : (s.resetEvent).sp = s.sp := rfl
@[simp] theorem State.resetEvent_flags (s : State) : (s.resetEvent).flags = s.flags := rfl
@[simp] theorem State.resetEvent_holds (s : State) : (s.resetEvent).holds = s.holds := rfl
@[simp] theorem State.resetEvent_mem (s : State) : (s.resetEvent).mem = s.mem := rfl
@[simp] theorem State.resetEvent_trace (s : State) : (s.resetEvent).trace = s.trace := rfl
@[simp] theorem State.resetEvent_clock (s : State) : (s.resetEvent).clock = s.clock := rfl
@[simp] theorem State.resetEvent_draws (s : State) : (s.resetEvent).draws = s.draws := rfl
@[simp] theorem State.resetEvent_inputs (s : State) : (s.resetEvent).inputs = s.inputs := rfl
@[simp] theorem State.resetEvent_platform (s : State) : (s.resetEvent).platform = s.platform := rfl
@[simp] theorem State.resetEvent_kindAt (s : State) (x : Word) :
    (s.resetEvent).kindAt x = s.kindAt x := by simp only [State.kindAt, State.resetEvent_platform]

@[simp] theorem State.acknowledge_inte (s : State) : s.acknowledge.inte = false := rfl

@[simp] theorem State.acknowledge_eiPending (s : State) : s.acknowledge.eiPending = false := rfl

@[simp] theorem State.acknowledge_halted (s : State) : s.acknowledge.halted = false := rfl

@[simp] theorem State.resetEvent_pc (s : State) : s.resetEvent.pc = 0 := rfl

@[simp] theorem State.resetEvent_inte (s : State) : s.resetEvent.inte = false := rfl

@[simp] theorem State.resetEvent_hlda (s : State) : s.resetEvent.hlda = false := rfl

@[simp] theorem State.resetEvent_halted (s : State) : s.resetEvent.halted = false := rfl

@[simp] theorem State.resetEvent_eiPending (s : State) : s.resetEvent.eiPending = false := rfl

theorem State.intByte_trace (s : State) (k : CycleKind) (b : Option Byte) :
    (s.intByte k b).2.trace = { kind := k, addr := s.pc, data := some (s.intByte k b).1 } :: s.trace := by
  unfold State.intByte
  split <;> simp

theorem State.intByte_byteAt (s : State) (k : CycleKind) (b : Option Byte) {a : Word} (h : s.kindAt a ≠ .ram) :
    (s.intByte k b).2.byteAt a = s.byteAt a := by
  unfold State.intByte
  split <;> exact State.record_byteAt _ _ _ _ h

theorem State.intByte_wf (s : State) (k : CycleKind) (b : Option Byte) (h : s.mem.wf = true) :
    (s.intByte k b).2.mem.wf = true := by
  unfold State.intByte
  split <;> exact State.record_wf _ _ _ _ h

/-- What taking an interrupt can do (60_exceptions R256 to R259): the state differs from the acknowledged one in memory (a
hold between the acknowledge cycles), the trace, the draws and the holds still due; the instruction is a CALL or a one-byte
instruction. -/
theorem State.takeInterrupt_ok {s : State} {bytes : List Byte} {i : Instr} {t : State}
    (h : s.takeInterrupt bytes = .ok (i, t)) :
    t.regs = s.regs ∧ t.sp = s.sp ∧ t.pc = s.pc ∧ t.flags = s.flags ∧ t.inte = false ∧ t.halted = false ∧
    t.eiPending = false ∧ t.hlda = s.hlda ∧ t.clock = s.clock ∧ t.inputs = s.inputs ∧ t.platform = s.platform ∧
    (s.mem.wf = true → t.mem.wf = true) ∧ (∀ a, s.kindAt a ≠ .ram → t.byteAt a = s.byteAt a) ∧
    (∃ cs, t.trace = cs ++ s.trace) ∧ i.wf = true := by
  unfold State.takeInterrupt at h
  dsimp only at h
  generalize (if s.halted = true then CycleKind.intAckHalt else CycleKind.intAck) = k at h
  split at h
  · simp only [Except.ok.injEq, Prod.mk.injEq] at h
    obtain ⟨rfl, rfl⟩ := h
    refine ⟨by simp, by simp, by simp, by simp, by simp, by simp, by simp, by simp, by simp, by simp, by simp, ?_, ?_, ?_, rfl⟩
    · intro hw
      exact State.intByte_wf _ _ _ (State.intByte_wf _ _ _ (State.intByte_wf _ _ _ hw))
    · intro a ha
      rw [State.intByte_byteAt _ _ _ (by simpa using ha), State.intByte_byteAt _ _ _ (by simpa using ha),
        State.intByte_byteAt _ _ _ (by simpa using ha)]
      rfl
    · rw [State.intByte_trace, State.intByte_trace, State.intByte_trace]
      exact ⟨[_, _, _], rfl⟩
  · split at h
    · cases h
    · simp only [Except.ok.injEq, Prod.mk.injEq] at h
      obtain ⟨rfl, rfl⟩ := h
      refine ⟨by simp, by simp, by simp, by simp, by simp, by simp, by simp, by simp, by simp, by simp, by simp, ?_, ?_, ?_, ?_⟩
      · intro hw
        exact State.intByte_wf _ _ _ hw
      · intro a ha
        rw [State.intByte_byteAt _ _ _ (by simpa using ha)]
        rfl
      · rw [State.intByte_trace]
        exact ⟨[_], rfl⟩
      · exact decodeOp_wf _ _ _

end Sys2Proof.Machine
end

