-- ==== Sys2Proof/Laws/Exec.lean ====
section
/-! SUPPORT. The operations of the meanings (control transfer, the accumulator, the undefined duplicates) field by field, and what
the execution of any instruction leaves alone. -/

namespace Sys2Proof.Machine

/-! ### The memory operand M -/

@[simp] theorem State.readM_regs (s : State) : (s.readM.2).regs = s.regs := by simp [State.readM]
@[simp] theorem State.readM_sp (s : State) : (s.readM.2).sp = s.sp := by simp [State.readM]
@[simp] theorem State.readM_pc (s : State) : (s.readM.2).pc = s.pc := by simp [State.readM]
@[simp] theorem State.readM_flags (s : State) : (s.readM.2).flags = s.flags := by simp [State.readM]
@[simp] theorem State.readM_inte (s : State) : (s.readM.2).inte = s.inte := by simp [State.readM]
@[simp] theorem State.readM_halted (s : State) : (s.readM.2).halted = s.halted := by simp [State.readM]
@[simp] theorem State.readM_eiPending (s : State) : (s.readM.2).eiPending = s.eiPending := by simp [State.readM]
@[simp] theorem State.readM_hlda (s : State) : (s.readM.2).hlda = s.hlda := by simp [State.readM]
@[simp] theorem State.readM_clock (s : State) : (s.readM.2).clock = s.clock := by simp [State.readM]
@[simp] theorem State.readM_inputs (s : State) : (s.readM.2).inputs = s.inputs := by simp [State.readM]
@[simp] theorem State.readM_platform (s : State) : (s.readM.2).platform = s.platform := by simp [State.readM]
@[simp] theorem State.readM_kindAt (s : State) (x : Word) :
    (s.readM.2).kindAt x = s.kindAt x := by simp only [State.kindAt, State.readM_platform]

@[simp] theorem State.writeM_regs (s : State) (v : Byte) : (s.writeM v).regs = s.regs := by simp [State.writeM]
@[simp] theorem State.writeM_sp (s : State) (v : Byte) : (s.writeM v).sp = s.sp := by simp [State.writeM]
@[simp] theorem State.writeM_pc (s : State) (v : Byte) : (s.writeM v).pc = s.pc := by simp [State.writeM]
@[simp] theorem State.writeM_flags (s : State) (v : Byte) : (s.writeM v).flags = s.flags := by simp [State.writeM]
@[simp] theorem State.writeM_inte (s : State) (v : Byte) : (s.writeM v).inte = s.inte := by simp [State.writeM]
@[simp] theorem State.writeM_halted (s : State) (v : Byte) : (s.writeM v).halted = s.halted := by simp [State.writeM]
@[simp] theorem State.writeM_eiPending (s : State) (v : Byte) : (s.writeM v).eiPending = s.eiPending := by simp [State.writeM]
@[simp] theorem State.writeM_hlda (s : State) (v : Byte) : (s.writeM v).hlda = s.hlda := by simp [State.writeM]
@[simp] theorem State.writeM_clock (s : State) (v : Byte) : (s.writeM v).clock = s.clock := by simp [State.writeM]
@[simp] theorem State.writeM_draws (s : State) (v : Byte) : (s.writeM v).draws = s.draws := by simp [State.writeM]
@[simp] theorem State.writeM_inputs (s : State) (v : Byte) : (s.writeM v).inputs = s.inputs := by simp [State.writeM]
@[simp] theorem State.writeM_platform (s : State) (v : Byte) : (s.writeM v).platform = s.platform := by simp [State.writeM]
@[simp] theorem State.writeM_kindAt (s : State) (v : Byte) (x : Word) :
    (s.writeM v).kindAt x = s.kindAt x := by simp only [State.kindAt, State.writeM_platform]

/-! ### Control transfer -/

@[simp] theorem State.callTo_regs (s : State) (target : Word) : (s.callTo target).regs = s.regs := by simp [State.callTo]
@[simp] theorem State.callTo_flags (s : State) (target : Word) : (s.callTo target).flags = s.flags := by simp [State.callTo]
@[simp] theorem State.callTo_inte (s : State) (target : Word) : (s.callTo target).inte = s.inte := by simp [State.callTo]
@[simp] theorem State.callTo_halted (s : State) (target : Word) : (s.callTo target).halted = s.halted := by simp [State.callTo]
@[simp] theorem State.callTo_eiPending (s : State) (target : Word) : (s.callTo target).eiPending = s.eiPending := by simp [State.callTo]
@[simp] theorem State.callTo_hlda (s : State) (target : Word) : (s.callTo target).hlda = s.hlda := by simp [State.callTo]
@[simp] theorem State.callTo_clock (s : State) (target : Word) : (s.callTo target).clock = s.clock := by simp [State.callTo]
@[simp] theorem State.callTo_draws (s : State) (target : Word) : (s.callTo target).draws = s.draws := by simp [State.callTo]
@[simp] theorem State.callTo_inputs (s : State) (target : Word) : (s.callTo target).inputs = s.inputs := by simp [State.callTo]
@[simp] theorem State.callTo_platform (s : State) (target : Word) : (s.callTo target).platform = s.platform := by simp [State.callTo]
@[simp] theorem State.callTo_kindAt (s : State) (target : Word) (x : Word) :
    (s.callTo target).kindAt x = s.kindAt x := by simp only [State.kindAt, State.callTo_platform]

@[simp] theorem State.returnFromStack_regs (s : State) : (s.returnFromStack).regs = s.regs := by simp [State.returnFromStack]
@[simp] theorem State.returnFromStack_flags (s : State) : (s.returnFromStack).flags = s.flags := by simp [State.returnFromStack]
@[simp] theorem State.returnFromStack_inte (s : State) : (s.returnFromStack).inte = s.inte := by simp [State.returnFromStack]
@[simp] theorem State.returnFromStack_halted (s : State) : (s.returnFromStack).halted = s.halted := by simp [State.returnFromStack]
@[simp] theorem State.returnFromStack_eiPending (s : State) : (s.returnFromStack).eiPending = s.eiPending := by simp [State.returnFromStack]
@[simp] theorem State.returnFromStack_hlda (s : State) : (s.returnFromStack).hlda = s.hlda := by simp [State.returnFromStack]
@[simp] theorem State.returnFromStack_clock (s : State) : (s.returnFromStack).clock = s.clock := by simp [State.returnFromStack]
@[simp] theorem State.returnFromStack_inputs (s : State) : (s.returnFromStack).inputs = s.inputs := by simp [State.returnFromStack]
@[simp] theorem State.returnFromStack_platform (s : State) : (s.returnFromStack).platform = s.platform := by simp [State.returnFromStack]
@[simp] theorem State.returnFromStack_kindAt (s : State) (x : Word) :
    (s.returnFromStack).kindAt x = s.kindAt x := by simp only [State.kindAt, State.returnFromStack_platform]

@[simp] theorem State.jumpIf_regs (s : State) (cond : Cond) (target : Word) : (s.jumpIf cond target).regs = s.regs := by unfold State.jumpIf; split <;> rfl
@[simp] theorem State.jumpIf_sp (s : State) (cond : Cond) (target : Word) : (s.jumpIf cond target).sp = s.sp := by unfold State.jumpIf; split <;> rfl
@[simp] theorem State.jumpIf_flags (s : State) (cond : Cond) (target : Word) : (s.jumpIf cond target).flags = s.flags := by unfold State.jumpIf; split <;> rfl
@[simp] theorem State.jumpIf_inte (s : State) (cond : Cond) (target : Word) : (s.jumpIf cond target).inte = s.inte := by unfold State.jumpIf; split <;> rfl
@[simp] theorem State.jumpIf_halted (s : State) (cond : Cond) (target : Word) : (s.jumpIf cond target).halted = s.halted := by unfold State.jumpIf; split <;> rfl
@[simp] theorem State.jumpIf_eiPending (s : State) (cond : Cond) (target : Word) : (s.jumpIf cond target).eiPending = s.eiPending := by unfold State.jumpIf; split <;> rfl
@[simp] theorem State.jumpIf_hlda (s : State) (cond : Cond) (target : Word) : (s.jumpIf cond target).hlda = s.hlda := by unfold State.jumpIf; split <;> rfl
@[simp] theorem State.jumpIf_holds (s : State) (cond : Cond) (target : Word) : (s.jumpIf cond target).holds = s.holds := by unfold State.jumpIf; split <;> rfl
@[simp] theorem State.jumpIf_mem (s : State) (cond : Cond) (target : Word) : (s.jumpIf cond target).mem = s.mem := by unfold State.jumpIf; split <;> rfl
@[simp] theorem State.jumpIf_trace (s : State) (cond : Cond) (target : Word) : (s.jumpIf cond target).trace = s.trace := by unfold State.jumpIf; split <;> rfl
@[simp] theorem State.jumpIf_clock (s : State) (cond : Cond) (target : Word) : (s.jumpIf cond target).clock = s.clock := by unfold State.jumpIf; split <;> rfl
@[simp] theorem State.jumpIf_draws (s : State) (cond : Cond) (target : Word) : (s.jumpIf cond target).draws = s.draws := by unfold State.jumpIf; split <;> rfl
@[simp] theorem State.jumpIf_inputs (s : State) (cond : Cond) (target : Word) : (s.jumpIf cond target).inputs = s.inputs := by unfold State.jumpIf; split <;> rfl
@[simp] theorem State.jumpIf_platform (s : State) (cond : Cond) (target : Word) : (s.jumpIf cond target).platform = s.platform := by unfold State.jumpIf; split <;> rfl
@[simp] theorem State.jumpIf_kindAt (s : State) (cond : Cond) (target : Word) (x : Word) :
    (s.jumpIf cond target).kindAt x = s.kindAt x := by simp only [State.kindAt, State.jumpIf_platform]

@[simp] theorem State.callIf_regs (s : State) (cond : Cond) (target : Word) : (s.callIf cond target).regs = s.regs := by
  unfold State.callIf; split <;> simp
@[simp] theorem State.callIf_flags (s : State) (cond : Cond) (target : Word) : (s.callIf cond target).flags = s.flags := by
  unfold State.callIf; split <;> simp
@[simp] theorem State.callIf_inte (s : State) (cond : Cond) (target : Word) : (s.callIf cond target).inte = s.inte := by
  unfold State.callIf; split <;> simp
@[simp] theorem State.callIf_halted (s : State) (cond : Cond) (target : Word) : (s.callIf cond target).halted = s.halted := by
  unfold State.callIf; split <;> simp
@[simp] theorem State.callIf_eiPending (s : State) (cond : Cond) (target : Word) : (s.callIf cond target).eiPending = s.eiPending := by
  unfold State.callIf; split <;> simp
@[simp] theorem State.callIf_hlda (s : State) (cond : Cond) (target : Word) : (s.callIf cond target).hlda = s.hlda := by
  unfold State.callIf; split <;> simp
@[simp] theorem State.callIf_clock (s : State) (cond : Cond) (target : Word) : (s.callIf cond target).clock = s.clock := by
  unfold State.callIf; split <;> simp
@[simp] theorem State.callIf_draws (s : State) (cond : Cond) (target : Word) : (s.callIf cond target).draws = s.draws := by
  unfold State.callIf; split <;> simp
@[simp] theorem State.callIf_inputs (s : State) (cond : Cond) (target : Word) : (s.callIf cond target).inputs = s.inputs := by
  unfold State.callIf; split <;> simp
@[simp] theorem State.callIf_platform (s : State) (cond : Cond) (target : Word) : (s.callIf cond target).platform = s.platform := by
  unfold State.callIf; split <;> simp
@[simp] theorem State.callIf_kindAt (s : State) (cond : Cond) (target : Word) (x : Word) :
    (s.callIf cond target).kindAt x = s.kindAt x := by simp only [State.kindAt, State.callIf_platform]

@[simp] theorem State.returnIf_regs (s : State) (cond : Cond) : (s.returnIf cond).regs = s.regs := by
  unfold State.returnIf; split <;> simp
@[simp] theorem State.returnIf_flags (s : State) (cond : Cond) : (s.returnIf cond).flags = s.flags := by
  unfold State.returnIf; split <;> simp
@[simp] theorem State.returnIf_inte (s : State) (cond : Cond) : (s.returnIf cond).inte = s.inte := by
  unfold State.returnIf; split <;> simp
@[simp] theorem State.returnIf_halted (s : State) (cond : Cond) : (s.returnIf cond).halted = s.halted := by
  unfold State.returnIf; split <;> simp
@[simp] theorem State.returnIf_eiPending (s : State) (cond : Cond) : (s.returnIf cond).eiPending = s.eiPending := by
  unfold State.returnIf; split <;> simp
@[simp] theorem State.returnIf_hlda (s : State) (cond : Cond) : (s.returnIf cond).hlda = s.hlda := by
  unfold State.returnIf; split <;> simp
@[simp] theorem State.returnIf_clock (s : State) (cond : Cond) : (s.returnIf cond).clock = s.clock := by
  unfold State.returnIf; split <;> simp
@[simp] theorem State.returnIf_inputs (s : State) (cond : Cond) : (s.returnIf cond).inputs = s.inputs := by
  unfold State.returnIf; split <;> simp
@[simp] theorem State.returnIf_platform (s : State) (cond : Cond) : (s.returnIf cond).platform = s.platform := by
  unfold State.returnIf; split <;> simp
@[simp] theorem State.returnIf_kindAt (s : State) (cond : Cond) (x : Word) :
    (s.returnIf cond).kindAt x = s.kindAt x := by simp only [State.kindAt, State.returnIf_platform]

/-! ### The accumulator -/

@[simp] theorem State.addToA_sp (s : State) (v : Byte) (cin : Bool) : (s.addToA v cin).sp = s.sp := rfl
@[simp] theorem State.addToA_pc (s : State) (v : Byte) (cin : Bool) : (s.addToA v cin).pc = s.pc := rfl
@[simp] theorem State.addToA_inte (s : State) (v : Byte) (cin : Bool) : (s.addToA v cin).inte = s.inte := rfl
@[simp] theorem State.addToA_halted (s : State) (v : Byte) (cin : Bool) : (s.addToA v cin).halted = s.halted := rfl
@[simp] theorem State.addToA_eiPending (s : State) (v : Byte) (cin : Bool) : (s.addToA v cin).eiPending = s.eiPending := rfl
@[simp] theorem State.addToA_hlda (s : State) (v : Byte) (cin : Bool) : (s.addToA v cin).hlda = s.hlda := rfl
@[simp] theorem State.addToA_holds (s : State) (v : Byte) (cin : Bool) : (s.addToA v cin).holds = s.holds := rfl
@[simp] theorem State.addToA_mem (s : State) (v : Byte) (cin : Bool) : (s.addToA v cin).mem = s.mem := rfl
@[simp] theorem State.addToA_trace (s : State) (v : Byte) (cin : Bool) : (s.addToA v cin).trace = s.trace := rfl
@[simp] theorem State.addToA_clock (s : State) (v : Byte) (cin : Bool) : (s.addToA v cin).clock = s.clock := rfl
@[simp] theorem State.addToA_draws (s : State) (v : Byte) (cin : Bool) : (s.addToA v cin).draws = s.draws := rfl
@[simp] theorem State.addToA_inputs (s : State) (v : Byte) (cin : Bool) : (s.addToA v cin).inputs = s.inputs := rfl
@[simp] theorem State.addToA_platform (s : State) (v : Byte) (cin : Bool) : (s.addToA v cin).platform = s.platform := rfl
@[simp] theorem State.addToA_kindAt (s : State) (v : Byte) (cin : Bool) (x : Word) :
    (s.addToA v cin).kindAt x = s.kindAt x := by simp only [State.kindAt, State.addToA_platform]

@[simp] theorem State.subFromA_sp (s : State) (v : Byte) (bin : Bool) : (s.subFromA v bin).sp = s.sp := rfl
@[simp] theorem State.subFromA_pc (s : State) (v : Byte) (bin : Bool) : (s.subFromA v bin).pc = s.pc := rfl
@[simp] theorem State.subFromA_inte (s : State) (v : Byte) (bin : Bool) : (s.subFromA v bin).inte = s.inte := rfl
@[simp] theorem State.subFromA_halted (s : State) (v : Byte) (bin : Bool) : (s.subFromA v bin).halted = s.halted := rfl
@[simp] theorem State.subFromA_eiPending (s : State) (v : Byte) (bin : Bool) : (s.subFromA v bin).eiPending = s.eiPending := rfl
@[simp] theorem State.subFromA_hlda (s : State) (v : Byte) (bin : Bool) : (s.subFromA v bin).hlda = s.hlda := rfl
@[simp] theorem State.subFromA_holds (s : State) (v : Byte) (bin : Bool) : (s.subFromA v bin).holds = s.holds := rfl
@[simp] theorem State.subFromA_mem (s : State) (v : Byte) (bin : Bool) : (s.subFromA v bin).mem = s.mem := rfl
@[simp] theorem State.subFromA_trace (s : State) (v : Byte) (bin : Bool) : (s.subFromA v bin).trace = s.trace := rfl
@[simp] theorem State.subFromA_clock (s : State) (v : Byte) (bin : Bool) : (s.subFromA v bin).clock = s.clock := rfl
@[simp] theorem State.subFromA_draws (s : State) (v : Byte) (bin : Bool) : (s.subFromA v bin).draws = s.draws := rfl
@[simp] theorem State.subFromA_inputs (s : State) (v : Byte) (bin : Bool) : (s.subFromA v bin).inputs = s.inputs := rfl
@[simp] theorem State.subFromA_platform (s : State) (v : Byte) (bin : Bool) : (s.subFromA v bin).platform = s.platform := rfl
@[simp] theorem State.subFromA_kindAt (s : State) (v : Byte) (bin : Bool) (x : Word) :
    (s.subFromA v bin).kindAt x = s.kindAt x := by simp only [State.kindAt, State.subFromA_platform]

@[simp] theorem State.compareA_regs (s : State) (v : Byte) (bin : Bool) : (s.compareA v bin).regs = s.regs := rfl
@[simp] theorem State.compareA_sp (s : State) (v : Byte) (bin : Bool) : (s.compareA v bin).sp = s.sp := rfl
@[simp] theorem State.compareA_pc (s : State) (v : Byte) (bin : Bool) : (s.compareA v bin).pc = s.pc := rfl
@[simp] theorem State.compareA_inte (s : State) (v : Byte) (bin : Bool) : (s.compareA v bin).inte = s.inte := rfl
@[simp] theorem State.compareA_halted (s : State) (v : Byte) (bin : Bool) : (s.compareA v bin).halted = s.halted := rfl
@[simp] theorem State.compareA_eiPending (s : State) (v : Byte) (bin : Bool) : (s.compareA v bin).eiPending = s.eiPending := rfl
@[simp] theorem State.compareA_hlda (s : State) (v : Byte) (bin : Bool) : (s.compareA v bin).hlda = s.hlda := rfl
@[simp] theorem State.compareA_holds (s : State) (v : Byte) (bin : Bool) : (s.compareA v bin).holds = s.holds := rfl
@[simp] theorem State.compareA_mem (s : State) (v : Byte) (bin : Bool) : (s.compareA v bin).mem = s.mem := rfl
@[simp] theorem State.compareA_trace (s : State) (v : Byte) (bin : Bool) : (s.compareA v bin).trace = s.trace := rfl
@[simp] theorem State.compareA_clock (s : State) (v : Byte) (bin : Bool) : (s.compareA v bin).clock = s.clock := rfl
@[simp] theorem State.compareA_draws (s : State) (v : Byte) (bin : Bool) : (s.compareA v bin).draws = s.draws := rfl
@[simp] theorem State.compareA_inputs (s : State) (v : Byte) (bin : Bool) : (s.compareA v bin).inputs = s.inputs := rfl
@[simp] theorem State.compareA_platform (s : State) (v : Byte) (bin : Bool) : (s.compareA v bin).platform = s.platform := rfl
@[simp] theorem State.compareA_kindAt (s : State) (v : Byte) (bin : Bool) (x : Word) :
    (s.compareA v bin).kindAt x = s.kindAt x := by simp only [State.kindAt, State.compareA_platform]

@[simp] theorem State.logicA_sp (s : State) (op : LogicOp) (v : Byte) : (s.logicA op v).sp = s.sp := rfl
@[simp] theorem State.logicA_pc (s : State) (op : LogicOp) (v : Byte) : (s.logicA op v).pc = s.pc := rfl
@[simp] theorem State.logicA_inte (s : State) (op : LogicOp) (v : Byte) : (s.logicA op v).inte = s.inte := rfl
@[simp] theorem State.logicA_halted (s : State) (op : LogicOp) (v : Byte) : (s.logicA op v).halted = s.halted := rfl
@[simp] theorem State.logicA_eiPending (s : State) (op : LogicOp) (v : Byte) : (s.logicA op v).eiPending = s.eiPending := rfl
@[simp] theorem State.logicA_hlda (s : State) (op : LogicOp) (v : Byte) : (s.logicA op v).hlda = s.hlda := rfl
@[simp] theorem State.logicA_holds (s : State) (op : LogicOp) (v : Byte) : (s.logicA op v).holds = s.holds := rfl
@[simp] theorem State.logicA_mem (s : State) (op : LogicOp) (v : Byte) : (s.logicA op v).mem = s.mem := rfl
@[simp] theorem State.logicA_trace (s : State) (op : LogicOp) (v : Byte) : (s.logicA op v).trace = s.trace := rfl
@[simp] theorem State.logicA_clock (s : State) (op : LogicOp) (v : Byte) : (s.logicA op v).clock = s.clock := rfl
@[simp] theorem State.logicA_draws (s : State) (op : LogicOp) (v : Byte) : (s.logicA op v).draws = s.draws := rfl
@[simp] theorem State.logicA_inputs (s : State) (op : LogicOp) (v : Byte) : (s.logicA op v).inputs = s.inputs := rfl
@[simp] theorem State.logicA_platform (s : State) (op : LogicOp) (v : Byte) : (s.logicA op v).platform = s.platform := rfl
@[simp] theorem State.logicA_kindAt (s : State) (op : LogicOp) (v : Byte) (x : Word) :
    (s.logicA op v).kindAt x = s.kindAt x := by simp only [State.kindAt, State.logicA_platform]

@[simp] theorem State.rotateA_sp (s : State) (a : Byte) (cy : Bool) : (s.rotateA a cy).sp = s.sp := rfl
@[simp] theorem State.rotateA_pc (s : State) (a : Byte) (cy : Bool) : (s.rotateA a cy).pc = s.pc := rfl
@[simp] theorem State.rotateA_inte (s : State) (a : Byte) (cy : Bool) : (s.rotateA a cy).inte = s.inte := rfl
@[simp] theorem State.rotateA_halted (s : State) (a : Byte) (cy : Bool) : (s.rotateA a cy).halted = s.halted := rfl
@[simp] theorem State.rotateA_eiPending (s : State) (a : Byte) (cy : Bool) : (s.rotateA a cy).eiPending = s.eiPending := rfl
@[simp] theorem State.rotateA_hlda (s : State) (a : Byte) (cy : Bool) : (s.rotateA a cy).hlda = s.hlda := rfl
@[simp] theorem State.rotateA_holds (s : State) (a : Byte) (cy : Bool) : (s.rotateA a cy).holds = s.holds := rfl
@[simp] theorem State.rotateA_mem (s : State) (a : Byte) (cy : Bool) : (s.rotateA a cy).mem = s.mem := rfl
@[simp] theorem State.rotateA_trace (s : State) (a : Byte) (cy : Bool) : (s.rotateA a cy).trace = s.trace := rfl
@[simp] theorem State.rotateA_clock (s : State) (a : Byte) (cy : Bool) : (s.rotateA a cy).clock = s.clock := rfl
@[simp] theorem State.rotateA_draws (s : State) (a : Byte) (cy : Bool) : (s.rotateA a cy).draws = s.draws := rfl
@[simp] theorem State.rotateA_inputs (s : State) (a : Byte) (cy : Bool) : (s.rotateA a cy).inputs = s.inputs := rfl
@[simp] theorem State.rotateA_platform (s : State) (a : Byte) (cy : Bool) : (s.rotateA a cy).platform = s.platform := rfl
@[simp] theorem State.rotateA_kindAt (s : State) (a : Byte) (cy : Bool) (x : Word) :
    (s.rotateA a cy).kindAt x = s.kindAt x := by simp only [State.kindAt, State.rotateA_platform]

/-! ### The undefined duplicates -/

@[simp] theorem State.undefinedDuplicate_regs (s : State) (op : Byte) : (s.undefinedDuplicate op).regs = s.regs := by
  unfold State.undefinedDuplicate; split <;> [simp; split <;> [simp; split <;> simp]]
@[simp] theorem State.undefinedDuplicate_flags (s : State) (op : Byte) : (s.undefinedDuplicate op).flags = s.flags := by
  unfold State.undefinedDuplicate; split <;> [simp; split <;> [simp; split <;> simp]]
@[simp] theorem State.undefinedDuplicate_inte (s : State) (op : Byte) : (s.undefinedDuplicate op).inte = s.inte := by
  unfold State.undefinedDuplicate; split <;> [simp; split <;> [simp; split <;> simp]]
@[simp] theorem State.undefinedDuplicate_halted (s : State) (op : Byte) : (s.undefinedDuplicate op).halted = s.halted := by
  unfold State.undefinedDuplicate; split <;> [simp; split <;> [simp; split <;> simp]]
@[simp] theorem State.undefinedDuplicate_eiPending (s : State) (op : Byte) : (s.undefinedDuplicate op).eiPending = s.eiPending := by
  unfold State.undefinedDuplicate; split <;> [simp; split <;> [simp; split <;> simp]]
@[simp] theorem State.undefinedDuplicate_hlda (s : State) (op : Byte) : (s.undefinedDuplicate op).hlda = s.hlda := by
  unfold State.undefinedDuplicate; split <;> [simp; split <;> [simp; split <;> simp]]
@[simp] theorem State.undefinedDuplicate_clock (s : State) (op : Byte) : (s.undefinedDuplicate op).clock = s.clock := by
  unfold State.undefinedDuplicate; split <;> [simp; split <;> [simp; split <;> simp]]
@[simp] theorem State.undefinedDuplicate_inputs (s : State) (op : Byte) : (s.undefinedDuplicate op).inputs = s.inputs := by
  unfold State.undefinedDuplicate; split <;> [simp; split <;> [simp; split <;> simp]]
@[simp] theorem State.undefinedDuplicate_platform (s : State) (op : Byte) : (s.undefinedDuplicate op).platform = s.platform := by
  unfold State.undefinedDuplicate; split <;> [simp; split <;> [simp; split <;> simp]]
@[simp] theorem State.undefinedDuplicate_kindAt (s : State) (op : Byte) (x : Word) :
    (s.undefinedDuplicate op).kindAt x = s.kindAt x := by simp only [State.kindAt, State.undefinedDuplicate_platform]

/-! ### What each instruction answers -/

@[simp] theorem exec_movRR (dst src : Reg) (s : State) : exec (.movRR dst src) s = .next (s.setReg dst (s.reg src)) := rfl

@[simp] theorem exec_movRM (dst : Reg) (s : State) : exec (.movRM dst) s = .next (s.readM.2.setReg dst s.readM.1) := rfl

@[simp] theorem exec_movMR (src : Reg) (s : State) : exec (.movMR src) s = .next (s.writeM (s.reg src)) := rfl

@[simp] theorem exec_mviR (dst : Reg) (data : Byte) (s : State) : exec (.mviR dst data) s = .next (s.setReg dst data) := rfl

@[simp] theorem exec_mviM (data : Byte) (s : State) : exec (.mviM data) s = .next (s.writeM data) := rfl

@[simp] theorem exec_lxi (rp : Pair) (data16 : Word) (s : State) : exec (.lxi rp data16) s = .next (s.setPair rp data16) := rfl

@[simp] theorem exec_lda (addr : Word) (s : State) :
    exec (.lda addr) s = .next (
      (s.memRead .memRead addr).2.setReg .a (s.memRead .memRead addr).1) := rfl

@[simp] theorem exec_sta (addr : Word) (s : State) : exec (.sta addr) s = .next (s.memWrite .memWrite addr (s.reg .a)) := rfl

@[simp] theorem exec_lhld (addr : Word) (s : State) :
    exec (.lhld addr) s = .next (
      ((s.memRead .memRead addr).2.memRead .memRead (addr + 1)).2.setPair .hl
      (joinBytes ((s.memRead .memRead addr).2.memRead .memRead (addr + 1)).1 (s.memRead .memRead addr).1)) := rfl

@[simp] theorem exec_shld (addr : Word) (s : State) :
    exec (.shld addr) s = .next ((s.memWrite .memWrite addr (s.reg .l)).memWrite .memWrite (addr + 1) (s.reg .h)) := rfl

@[simp] theorem exec_ldax (rp : IndexPair) (s : State) :
    exec (.ldax rp) s = .next (
      (s.memRead .memRead (s.pair (indexPair rp))).2.setReg .a (s.memRead .memRead (s.pair (indexPair rp))).1) := rfl

@[simp] theorem exec_stax (rp : IndexPair) (s : State) :
    exec (.stax rp) s = .next (s.memWrite .memWrite (s.pair (indexPair rp)) (s.reg .a)) := rfl

@[simp] theorem exec_xchg (s : State) : exec .xchg s = .next ((s.setPair .hl (s.pair .de)).setPair .de (s.pair .hl)) := rfl

@[simp] theorem exec_addR (src : Reg) (s : State) : exec (.addR src) s = .next (s.addToA (s.reg src) false) := rfl

@[simp] theorem exec_addM (s : State) : exec .addM s = .next (s.readM.2.addToA s.readM.1 false) := rfl

@[simp] theorem exec_adi (data : Byte) (s : State) : exec (.adi data) s = .next (s.addToA data false) := rfl

@[simp] theorem exec_adcR (src : Reg) (s : State) : exec (.adcR src) s = .next (s.addToA (s.reg src) s.flags.cy) := rfl

@[simp] theorem exec_adcM (s : State) : exec .adcM s = .next (s.readM.2.addToA s.readM.1 s.flags.cy) := rfl

@[simp] theorem exec_aci (data : Byte) (s : State) : exec (.aci data) s = .next (s.addToA data s.flags.cy) := rfl

@[simp] theorem exec_subR (src : Reg) (s : State) : exec (.subR src) s = .next (s.subFromA (s.reg src) false) := rfl

@[simp] theorem exec_subM (s : State) : exec .subM s = .next (s.readM.2.subFromA s.readM.1 false) := rfl

@[simp] theorem exec_sui (data : Byte) (s : State) : exec (.sui data) s = .next (s.subFromA data false) := rfl

@[simp] theorem exec_sbbR (src : Reg) (s : State) : exec (.sbbR src) s = .next (s.subFromA (s.reg src) s.flags.cy) := rfl

@[simp] theorem exec_sbbM (s : State) : exec .sbbM s = .next (s.readM.2.subFromA s.readM.1 s.flags.cy) := rfl

@[simp] theorem exec_sbi (data : Byte) (s : State) : exec (.sbi data) s = .next (s.subFromA data s.flags.cy) := rfl

@[simp] theorem exec_inrR (dst : Reg) (s : State) :
    exec (.inrR dst) s = .next (
      (s.setReg dst (increment (s.reg dst) s.flags).1).setFlags (increment (s.reg dst) s.flags).2) := rfl

@[simp] theorem exec_inrM (s : State) :
    exec .inrM s = .next (
      (s.readM.2.writeM (increment s.readM.1 s.flags).1).setFlags (increment s.readM.1 s.flags).2) := rfl

@[simp] theorem exec_dcrR (dst : Reg) (s : State) :
    exec (.dcrR dst) s = .next (
      (s.setReg dst (decrement (s.reg dst) s.flags).1).setFlags (decrement (s.reg dst) s.flags).2) := rfl

@[simp] theorem exec_dcrM (s : State) :
    exec .dcrM s = .next (
      (s.readM.2.writeM (decrement s.readM.1 s.flags).1).setFlags (decrement s.readM.1 s.flags).2) := rfl

@[simp] theorem exec_inx (rp : Pair) (s : State) : exec (.inx rp) s = .next (s.setPair rp (s.pair rp + 1)) := rfl

@[simp] theorem exec_dcx (rp : Pair) (s : State) : exec (.dcx rp) s = .next (s.setPair rp (s.pair rp - 1)) := rfl

@[simp] theorem exec_dad (rp : Pair) (s : State) :
    exec (.dad rp) s = .next (
      (s.setPair .hl ((s.hl.setWidth 17 + (s.pair rp).setWidth 17).extractLsb' 0 16)).setFlags
      { s.flags with cy := (s.hl.setWidth 17 + (s.pair rp).setWidth 17).getLsbD 16 }) := rfl

@[simp] theorem exec_daa (s : State) :
    exec .daa s = .next (
      (s.setReg .a (decimalAdjust (s.reg .a) s.flags).1).setFlags (decimalAdjust (s.reg .a) s.flags).2) := rfl

@[simp] theorem exec_anaR (src : Reg) (s : State) : exec (.anaR src) s = .next (s.logicA .ana (s.reg src)) := rfl

@[simp] theorem exec_anaM (s : State) : exec .anaM s = .next (s.readM.2.logicA .ana s.readM.1) := rfl

@[simp] theorem exec_ani (data : Byte) (s : State) : exec (.ani data) s = .next (s.logicA .ana data) := rfl

@[simp] theorem exec_xraR (src : Reg) (s : State) : exec (.xraR src) s = .next (s.logicA .xra (s.reg src)) := rfl

@[simp] theorem exec_xraM (s : State) : exec .xraM s = .next (s.readM.2.logicA .xra s.readM.1) := rfl

@[simp] theorem exec_xri (data : Byte) (s : State) : exec (.xri data) s = .next (s.logicA .xra data) := rfl

@[simp] theorem exec_oraR (src : Reg) (s : State) : exec (.oraR src) s = .next (s.logicA .ora (s.reg src)) := rfl

@[simp] theorem exec_oraM (s : State) : exec .oraM s = .next (s.readM.2.logicA .ora s.readM.1) := rfl

@[simp] theorem exec_ori (data : Byte) (s : State) : exec (.ori data) s = .next (s.logicA .ora data) := rfl

@[simp] theorem exec_cmpR (src : Reg) (s : State) : exec (.cmpR src) s = .next (s.compareA (s.reg src) false) := rfl

@[simp] theorem exec_cmpM (s : State) : exec .cmpM s = .next (s.readM.2.compareA s.readM.1 false) := rfl

@[simp] theorem exec_cpi (data : Byte) (s : State) : exec (.cpi data) s = .next (s.compareA data false) := rfl

@[simp] theorem exec_rlc (s : State) :
    exec .rlc s = .next (s.rotateA ((s.reg .a).extractLsb' 0 7 ++ (s.reg .a).extractLsb' 7 1) ((s.reg .a).getLsbD 7)) := rfl

@[simp] theorem exec_rrc (s : State) :
    exec .rrc s = .next (s.rotateA ((s.reg .a).extractLsb' 0 1 ++ (s.reg .a).extractLsb' 1 7) ((s.reg .a).getLsbD 0)) := rfl

@[simp] theorem exec_ral (s : State) :
    exec .ral s = .next (s.rotateA ((s.reg .a).extractLsb' 0 7 ++ BitVec.ofBool s.flags.cy) ((s.reg .a).getLsbD 7)) := rfl

@[simp] theorem exec_rar (s : State) :
    exec .rar s = .next (s.rotateA (BitVec.ofBool s.flags.cy ++ (s.reg .a).extractLsb' 1 7) ((s.reg .a).getLsbD 0)) := rfl

@[simp] theorem exec_cma (s : State) : exec .cma s = .next (s.setReg .a (~~~(s.reg .a))) := rfl

@[simp] theorem exec_cmc (s : State) : exec .cmc s = .next (s.setFlags { s.flags with cy := !s.flags.cy }) := rfl

@[simp] theorem exec_stc (s : State) : exec .stc s = .next (s.setFlags { s.flags with cy := true }) := rfl

@[simp] theorem exec_jmp (addr : Word) (s : State) : exec (.jmp addr) s = .next (s.setPc addr) := rfl

@[simp] theorem exec_jnz (addr : Word) (s : State) : exec (.jnz addr) s = .next (s.jumpIf .nz addr) := rfl

@[simp] theorem exec_jz (addr : Word) (s : State) : exec (.jz addr) s = .next (s.jumpIf .z addr) := rfl

@[simp] theorem exec_jnc (addr : Word) (s : State) : exec (.jnc addr) s = .next (s.jumpIf .nc addr) := rfl

@[simp] theorem exec_jc (addr : Word) (s : State) : exec (.jc addr) s = .next (s.jumpIf .c addr) := rfl

@[simp] theorem exec_jpo (addr : Word) (s : State) : exec (.jpo addr) s = .next (s.jumpIf .po addr) := rfl

@[simp] theorem exec_jpe (addr : Word) (s : State) : exec (.jpe addr) s = .next (s.jumpIf .pe addr) := rfl

@[simp] theorem exec_jp (addr : Word) (s : State) : exec (.jp addr) s = .next (s.jumpIf .p addr) := rfl

@[simp] theorem exec_jm (addr : Word) (s : State) : exec (.jm addr) s = .next (s.jumpIf .m addr) := rfl

@[simp] theorem exec_call (addr : Word) (s : State) : exec (.call addr) s = .next (s.callTo addr) := rfl

@[simp] theorem exec_cnz (addr : Word) (s : State) : exec (.cnz addr) s = .next (s.callIf .nz addr) := rfl

@[simp] theorem exec_cz (addr : Word) (s : State) : exec (.cz addr) s = .next (s.callIf .z addr) := rfl

@[simp] theorem exec_cnc (addr : Word) (s : State) : exec (.cnc addr) s = .next (s.callIf .nc addr) := rfl

@[simp] theorem exec_cc (addr : Word) (s : State) : exec (.cc addr) s = .next (s.callIf .c addr) := rfl

@[simp] theorem exec_cpo (addr : Word) (s : State) : exec (.cpo addr) s = .next (s.callIf .po addr) := rfl

@[simp] theorem exec_cpe (addr : Word) (s : State) : exec (.cpe addr) s = .next (s.callIf .pe addr) := rfl

@[simp] theorem exec_cp (addr : Word) (s : State) : exec (.cp addr) s = .next (s.callIf .p addr) := rfl

@[simp] theorem exec_cm (addr : Word) (s : State) : exec (.cm addr) s = .next (s.callIf .m addr) := rfl

@[simp] theorem exec_ret (s : State) : exec .ret s = .next s.returnFromStack := rfl

@[simp] theorem exec_rnz (s : State) : exec .rnz s = .next (s.returnIf .nz) := rfl

@[simp] theorem exec_rz (s : State) : exec .rz s = .next (s.returnIf .z) := rfl

@[simp] theorem exec_rnc (s : State) : exec .rnc s = .next (s.returnIf .nc) := rfl

@[simp] theorem exec_rc (s : State) : exec .rc s = .next (s.returnIf .c) := rfl

@[simp] theorem exec_rpo (s : State) : exec .rpo s = .next (s.returnIf .po) := rfl

@[simp] theorem exec_rpe (s : State) : exec .rpe s = .next (s.returnIf .pe) := rfl

@[simp] theorem exec_rp (s : State) : exec .rp s = .next (s.returnIf .p) := rfl

@[simp] theorem exec_rm (s : State) : exec .rm s = .next (s.returnIf .m) := rfl

@[simp] theorem exec_rst (n : BitVec 3) (s : State) : exec (.rst n) s = .next (s.callTo (restartAddress n)) := rfl

@[simp] theorem exec_pchl (s : State) : exec .pchl s = .next (s.setPc s.hl) := rfl

@[simp] theorem exec_push (rp : StackPair) (s : State) : exec (.push rp) s = .next (s.pushWord (s.pair (stackPair rp))) := rfl

@[simp] theorem exec_pushPsw (s : State) : exec .pushPsw s = .next (s.pushWord (joinBytes (s.reg .a) (flagByte s.flags))) := rfl

@[simp] theorem exec_pop (rp : StackPair) (s : State) :
    exec (.pop rp) s = .next (s.popWord.2.setPair (stackPair rp) s.popWord.1) := rfl

@[simp] theorem exec_popPsw (s : State) :
    exec .popPsw s = .next ((s.popWord.2.setReg .a (hi s.popWord.1)).setFlags (flagsOfByte (lo s.popWord.1))) := rfl

@[simp] theorem exec_sphl (s : State) : exec .sphl s = .next (s.setSp s.hl) := rfl

@[simp] theorem exec_inPort (port : Byte) (s : State) :
    exec (.inPort port) s = .next (
      (s.ioRead port).2.setReg .a (s.ioRead port).1) := rfl

@[simp] theorem exec_outPort (port : Byte) (s : State) : exec (.outPort port) s = .next (s.ioWrite port (s.reg .a)) := rfl

@[simp] theorem exec_ei (s : State) : exec .ei s = .next (s.setEiPending true) := rfl

@[simp] theorem exec_di (s : State) : exec .di s = .next ((s.setInte false).setEiPending false) := rfl

@[simp] theorem exec_hlt (s : State) : exec .hlt s = .next ((s.record .haltAck s.pc none).setHalted true) := rfl

@[simp] theorem exec_nop (s : State) : exec .nop s = .next s := rfl

@[simp] theorem exec_xthl (s : State) :
    exec .xthl s = .next (
      ((((s.memRead .stackRead s.sp).2.memRead .stackRead (s.sp + 1)).2.memWrite .stackWrite (s.sp + 1)
        (s.reg .h)).memWrite .stackWrite s.sp (s.reg .l)).setPair .hl
      (joinBytes ((s.memRead .stackRead s.sp).2.memRead .stackRead (s.sp + 1)).1 (s.memRead .stackRead s.sp).1)) := rfl

theorem exec_undefined_fault {s : State} (h : s.platform.undefOpcode = .fault) (op : Byte) :
    exec (.undefined op) s = .fault (.undefinedOpcode op s) := by
  simp only [exec, execUndefined, h]

theorem exec_undefined_silicon {s : State} (h : s.platform.undefOpcode = .silicon) (op : Byte) :
    exec (.undefined op) s = .next (s.undefinedDuplicate op) := by
  simp only [exec, execUndefined, h]

/-- An undefined opcode goes on only as its reported duplicate (30_encoding R78). -/
theorem exec_undefined_next {s t : State} {op : Byte} (h : exec (.undefined op) s = .next t) :
    s.platform.undefOpcode = .silicon ∧ t = s.undefinedDuplicate op := by
  cases hu : s.platform.undefOpcode with
  | fault =>
    rw [exec_undefined_fault hu] at h
    cases h
  | silicon =>
    rw [exec_undefined_silicon hu] at h
    exact ⟨rfl, (Host.Outcome.next.inj h).symm⟩

/-! ### Any instruction -/

/-- No instruction changes the platform, the coming inputs, HLDA or the clock by itself (50_machine_cycles R240). -/
theorem exec_keeps_environment {i : Instr} {s t : State} (h : exec i s = .next t) :
    t.platform = s.platform ∧ t.inputs = s.inputs ∧ t.hlda = s.hlda ∧ t.clock = s.clock := by
  cases i
  case undefined op =>
    obtain ⟨-, rfl⟩ := exec_undefined_next h
    simp
  all_goals
    simp at h
    subst h
    simp

end Sys2Proof.Machine
end

