-- ==== Sys2Proof/Laws/Flags.lean ====
section
/-! SUPPORT. What the flag computations give, as numbers: the spec lemma of each (spec 10_state.md R18, 42_arithmetic.md R120,
R121, R134, R136, R141; 43_logical.md R150; 10_state.md R20). -/

namespace Sys2Proof.Machine

theorem bitValue_le (b : Bool) : bitValue b ≤ 1 := by cases b <;> decide

@[simp] theorem bitValue_false : bitValue false = 0 := rfl

@[simp] theorem bitValue_true : bitValue true = 1 := rfl

theorem bit_toNat (n : Nat) (h : 0 < n) (b : Bool) : (bit n b).toNat = bitValue b := by
  have h2 : 1 < 2 ^ n := Nat.one_lt_two_pow (by omega)
  cases b <;> simp [bit, bitValue, Nat.mod_eq_of_lt h2]

theorem parity8_eq (v : Byte) : parity8 v = decide (onesBelow v.toNat 8 % 2 = 0) := by
  revert v
  decide +revert

theorem msb_eq (v : Byte) : v.getLsbD 7 = decide (128 ≤ v.toNat) := by
  revert v
  decide +revert

/-- `setZSP` gives the flags of its result (10_state R18). -/
theorem setZSP_zspOf (v : Byte) (f : Flags) : ZspOf v (setZSP v f) where
  z := by simp [setZSP, ← BitVec.toNat_inj]
  s := msb_eq v
  p := parity8_eq v

@[simp] theorem setZSP_cy (v : Byte) (f : Flags) : (setZSP v f).cy = f.cy := rfl

@[simp] theorem setZSP_ac (v : Byte) (f : Flags) : (setZSP v f).ac = f.ac := rfl

/-- Z, S and P do not depend on CY and AC. -/
theorem ZspOf.withCyAc {v : Byte} {f : Flags} (h : ZspOf v f) (cy ac : Bool) : ZspOf v { f with cy := cy, ac := ac } :=
  ⟨h.z, h.s, h.p⟩

theorem add8_result (a b : Byte) (cin : Bool) : (add8 a b cin).r.toNat = (a.toNat + b.toNat + bitValue cin) % 256 := by
  have ha := a.isLt
  have hb := b.isLt
  have hc := bitValue_le cin
  simp only [add8, BitVec.extractLsb'_toNat, BitVec.toNat_add, BitVec.toNat_setWidth, bit_toNat 9 (by decide),
    Nat.shiftRight_zero]
  omega

theorem add8_cy (a b : Byte) (cin : Bool) : (add8 a b cin).cy = decide (256 ≤ a.toNat + b.toNat + bitValue cin) := by
  have ha := a.isLt
  have hb := b.isLt
  have hc := bitValue_le cin
  simp only [add8, BitVec.getLsbD, BitVec.toNat_add, BitVec.toNat_setWidth, bit_toNat 9 (by decide),
    Nat.testBit_eq_decide_div_mod_eq]
  congr 1
  apply propext
  omega

theorem add8_ac (a b : Byte) (cin : Bool) :
    (add8 a b cin).ac = decide (16 ≤ a.toNat % 16 + b.toNat % 16 + bitValue cin) := by
  have hc := bitValue_le cin
  simp only [add8, BitVec.getLsbD, BitVec.toNat_add, BitVec.toNat_setWidth, bit_toNat 5 (by decide),
    BitVec.extractLsb'_toNat, Nat.testBit_eq_decide_div_mod_eq, Nat.shiftRight_zero]
  congr 1
  apply propext
  omega

/-- `add8` with its flags is the sum of 42_arithmetic R120. -/
theorem add8_isSum (a b : Byte) (cin : Bool) (f : Flags) :
    IsSum a b cin (add8 a b cin).r (setflagsArith (add8 a b cin) f) where
  result := add8_result a b cin
  cy := add8_cy a b cin
  ac := add8_ac a b cin
  zsp := (setZSP_zspOf _ f).withCyAc _ _

theorem bitValue_not (b : Bool) : bitValue (!b) = 1 - bitValue b := by cases b <;> rfl

/-- `sub8` with its flags is the difference of 42_arithmetic R121. -/
theorem sub8_isDifference (a b : Byte) (bin : Bool) (f : Flags) :
    IsDifference a b bin (sub8 a b bin).r (setflagsArith (sub8 a b bin) f) where
  result := by
    have ha := a.isLt
    have hb := b.isLt
    have hc := bitValue_le bin
    simp only [sub8, add8_result, BitVec.toNat_not, bitValue_not]
    omega
  cy := by
    have ha := a.isLt
    have hb := b.isLt
    have hc := bitValue_le bin
    simp only [setflagsArith, sub8, add8_cy, BitVec.toNat_not, bitValue_not, ← decide_not]
    congr 1
    apply propext
    omega
  ac := by
    have hb := b.isLt
    have hc := bitValue_le bin
    simp only [setflagsArith, sub8, add8_ac, BitVec.toNat_not, bitValue_not]
    congr 1
    apply propext
    omega
  zsp := (setZSP_zspOf _ f).withCyAc _ _

theorem increment_fst (v : Byte) (f : Flags) : (increment v f).1 = v + 1 := by
  apply BitVec.eq_of_toNat_eq
  simp [increment, add8_result, BitVec.toNat_add]

@[simp] theorem increment_cy (v : Byte) (f : Flags) : (increment v f).2.cy = f.cy := rfl

theorem increment_ac (v : Byte) (f : Flags) : (increment v f).2.ac = decide (v.toNat % 16 = 15) := by
  simp only [increment, add8_ac]
  congr 1
  apply propext
  have : (0x01 : Byte).toNat = 1 := rfl
  rw [this, bitValue_false]
  omega

theorem increment_zspOf (v : Byte) (f : Flags) : ZspOf (v + 1) (increment v f).2 := by
  rw [← increment_fst v f]
  exact (setZSP_zspOf _ f).withCyAc _ _

theorem decrement_fst (v : Byte) (f : Flags) : (decrement v f).1 = v - 1 := by
  apply BitVec.eq_of_toNat_eq
  have h := (sub8_isDifference v 0x01 false f).result
  have hl := (sub8 v 0x01 false).r.isLt
  have hv := v.isLt
  simp only [decrement, BitVec.toNat_sub]
  have h1 : (0x01 : Byte).toNat = 1 := rfl
  have h2 : (1 : Byte).toNat = 1 := rfl
  rw [h1, bitValue_false] at h
  rw [h2]
  omega

@[simp] theorem decrement_cy (v : Byte) (f : Flags) : (decrement v f).2.cy = f.cy := rfl

theorem decrement_ac (v : Byte) (f : Flags) : (decrement v f).2.ac = decide (v.toNat % 16 ≠ 0) := by
  have h := (sub8_isDifference v 0x01 false f).ac
  simp only [decrement, setflagsArith] at h ⊢
  rw [h]
  congr 1
  apply propext
  have h1 : (0x01 : Byte).toNat = 1 := rfl
  rw [h1, bitValue_false]
  omega

theorem decrement_zspOf (v : Byte) (f : Flags) : ZspOf (v - 1) (decrement v f).2 := by
  rw [← decrement_fst v f]
  exact (setZSP_zspOf _ f).withCyAc _ _

/-- What step 1 of DAA adds (42_arithmetic R141). -/
def daaAddend (a : Byte) (f : Flags) : Nat := if a.toNat % 16 > 9 ∨ f.ac = true then 6 else 0

theorem nibble_toNat (a : Byte) : (a.extractLsb' 0 4).toNat = a.toNat % 16 := by simp

theorem highNibble_toNat (a : Byte) : (a.extractLsb' 4 4).toNat = a.toNat / 16 := by
  have h := a.isLt
  simp only [BitVec.extractLsb'_toNat, Nat.shiftRight_eq_div_pow]
  omega

/-- Step 1 of DAA as a sum. -/
theorem daaLow_eq (a : Byte) (f : Flags) :
    (daaLow a f).r.toNat = (a.toNat + daaAddend a f) % 256 ∧
    (daaLow a f).cy = decide (256 ≤ a.toNat + daaAddend a f) ∧
    (daaLow a f).ac = decide (16 ≤ a.toNat % 16 + daaAddend a f) := by
  have h := a.isLt
  have h6 : (0x06 : Byte).toNat = 6 := rfl
  unfold daaLow daaAddend
  rw [nibble_toNat]
  split
  · refine ⟨?_, ?_, ?_⟩
    · rw [add8_result, h6, bitValue_false, Nat.add_zero]
    · rw [add8_cy, h6, bitValue_false, Nat.add_zero]
    · rw [add8_ac, h6, bitValue_false, Nat.add_zero]
  · refine ⟨?_, ?_, ?_⟩
    · simp only [Nat.add_zero]
      omega
    · simp only [Nat.add_zero]
      exact (decide_eq_false (by omega)).symm
    · simp only [Nat.add_zero]
      exact (decide_eq_false (by omega)).symm

/-- Whether step 2 of DAA adds (42_arithmetic R141). -/
def daaHigh (a : Byte) (f : Flags) : Bool :=
  decide ((a.toNat + daaAddend a f) % 256 / 16 > 9 ∨ f.cy = true ∨ 256 ≤ a.toNat + daaAddend a f)

/-- DAA as numbers: the result, CY, AC, and Z, S, P (42_arithmetic R141). -/
theorem decimalAdjust_eq (a : Byte) (f : Flags) :
    (decimalAdjust a f).1.toNat = (a.toNat + daaAddend a f + (if daaHigh a f then 96 else 0)) % 256 ∧
    (decimalAdjust a f).2.cy = daaHigh a f ∧
    (decimalAdjust a f).2.ac = decide (16 ≤ a.toNat % 16 + daaAddend a f) ∧
    ZspOf (decimalAdjust a f).1 (decimalAdjust a f).2 := by
  obtain ⟨hr, hc, ha⟩ := daaLow_eq a f
  have h60 : (0x60 : Byte).toNat = 96 := rfl
  simp only [decimalAdjust, highNibble_toNat, hr, hc, decide_eq_true_eq]
  split
  · next h =>
    have hd : daaHigh a f = true := by simpa [daaHigh] using h
    refine ⟨?_, hd.symm, ha, (setZSP_zspOf _ f).withCyAc _ _⟩
    simp only [add8_result, hr, h60, hd, if_true, bitValue_false, Nat.add_zero]
    omega
  · next h =>
    have hd : daaHigh a f = false := by simpa [daaHigh] using h
    refine ⟨?_, hd.symm, ha, (setZSP_zspOf _ f).withCyAc _ _⟩
    simp only [hr, hd]
    simp

/-- A Boolean operation acts on each bit (43_logical R150 to R159). -/
theorem logicResult_bit (op : LogicOp) (a b : Byte) (k : Nat) :
    (logicResult op a b).getLsbD k =
      match op with
      | .ana => a.getLsbD k && b.getLsbD k
      | .xra => a.getLsbD k ^^ b.getLsbD k
      | .ora => a.getLsbD k || b.getLsbD k := by
  cases op <;> simp [logicResult]

@[simp] theorem setflagsLogic_cy (m : AnaAC) (op : LogicOp) (a b : Byte) (f : Flags) :
    (setflagsLogic m op a b f).cy = false := rfl

@[simp] theorem setflagsLogic_ac (m : AnaAC) (op : LogicOp) (a b : Byte) (f : Flags) :
    (setflagsLogic m op a b f).ac = logicAC m op a b := rfl

theorem setflagsLogic_zspOf (m : AnaAC) (op : LogicOp) (a b : Byte) (f : Flags) :
    ZspOf (logicResult op a b) (setflagsLogic m op a b f) := (setZSP_zspOf _ f).withCyAc _ _

/-- The flags read back from the flag byte are the flags it was made from (10_state R20). -/
@[simp] theorem flagsOfByte_flagByte (f : Flags) : flagsOfByte (flagByte f) = f := by
  obtain ⟨z, s, p, cy, ac⟩ := f
  cases z <;> cases s <;> cases p <;> cases cy <;> cases ac <;> rfl

end Sys2Proof.Machine
end

