-- ==== Sys2Proof/Laws/PerInstr.lean ====
section
/-! SUPPORT. Statements about each instruction as syntax, one lemma per constructor of `Instr`. -/

namespace Sys2Proof.Laws

/-- A well-formed instruction is encoded in as many bytes as its first byte announces (spec 30_encoding.md rules R71, R74). -/
def EncodedLength.Statement (i : Instr) : Prop := i.wf = true → (encode i).length = opLength ((encode i).headD 0)

theorem twoBytes_length {op : Byte} (data : Byte) (h : opLength op = 2) :
    (twoBytes op data).length = opLength ((twoBytes op data).headD 0) := h.symm

theorem threeBytes_length {op : Byte} (addr : Word) (h : opLength op = 3) :
    (threeBytes op addr).length = opLength ((threeBytes op addr).headD 0) := h.symm

theorem EncodedLength.movRR (dst src : Reg) : EncodedLength.Statement (.movRR dst src) := fun _ => by
  cases dst <;> cases src <;> decide

theorem EncodedLength.movRM (dst : Reg) : EncodedLength.Statement (.movRM dst) := fun _ => by
  cases dst <;> decide

theorem EncodedLength.movMR (src : Reg) : EncodedLength.Statement (.movMR src) := fun _ => by
  cases src <;> decide

theorem EncodedLength.mviR (dst : Reg) (data : Byte) : EncodedLength.Statement (.mviR dst data) := fun _ => by
  have h : opLength (0b00#2 ++ dst.code ++ 0b110#3) = 2 := by cases dst <;> decide
  exact h.symm

theorem EncodedLength.mviM (data : Byte) : EncodedLength.Statement (.mviM data) := fun _ => twoBytes_length data (by decide)

theorem EncodedLength.lxi (rp : Pair) (data16 : Word) : EncodedLength.Statement (.lxi rp data16) := fun _ => by
  have h : opLength (0b00#2 ++ rp.code ++ 0b0001#4) = 3 := by cases rp <;> decide
  exact h.symm

theorem EncodedLength.lda (addr : Word) : EncodedLength.Statement (.lda addr) := fun _ => threeBytes_length addr (by decide)

theorem EncodedLength.sta (addr : Word) : EncodedLength.Statement (.sta addr) := fun _ => threeBytes_length addr (by decide)

theorem EncodedLength.lhld (addr : Word) : EncodedLength.Statement (.lhld addr) := fun _ => threeBytes_length addr (by decide)

theorem EncodedLength.shld (addr : Word) : EncodedLength.Statement (.shld addr) := fun _ => threeBytes_length addr (by decide)

theorem EncodedLength.ldax (rp : IndexPair) : EncodedLength.Statement (.ldax rp) := fun _ => by
  cases rp <;> decide

theorem EncodedLength.stax (rp : IndexPair) : EncodedLength.Statement (.stax rp) := fun _ => by
  cases rp <;> decide

theorem EncodedLength.xchg : EncodedLength.Statement .xchg := fun _ => rfl

theorem EncodedLength.addR (src : Reg) : EncodedLength.Statement (.addR src) := fun _ => by
  cases src <;> decide

theorem EncodedLength.addM : EncodedLength.Statement .addM := fun _ => rfl

theorem EncodedLength.adi (data : Byte) : EncodedLength.Statement (.adi data) := fun _ => twoBytes_length data (by decide)

theorem EncodedLength.adcR (src : Reg) : EncodedLength.Statement (.adcR src) := fun _ => by
  cases src <;> decide

theorem EncodedLength.adcM : EncodedLength.Statement .adcM := fun _ => rfl

theorem EncodedLength.aci (data : Byte) : EncodedLength.Statement (.aci data) := fun _ => twoBytes_length data (by decide)

theorem EncodedLength.subR (src : Reg) : EncodedLength.Statement (.subR src) := fun _ => by
  cases src <;> decide

theorem EncodedLength.subM : EncodedLength.Statement .subM := fun _ => rfl

theorem EncodedLength.sui (data : Byte) : EncodedLength.Statement (.sui data) := fun _ => twoBytes_length data (by decide)

theorem EncodedLength.sbbR (src : Reg) : EncodedLength.Statement (.sbbR src) := fun _ => by
  cases src <;> decide

theorem EncodedLength.sbbM : EncodedLength.Statement .sbbM := fun _ => rfl

theorem EncodedLength.sbi (data : Byte) : EncodedLength.Statement (.sbi data) := fun _ => twoBytes_length data (by decide)

theorem EncodedLength.inrR (dst : Reg) : EncodedLength.Statement (.inrR dst) := fun _ => by
  cases dst <;> decide

theorem EncodedLength.inrM : EncodedLength.Statement .inrM := fun _ => rfl

theorem EncodedLength.dcrR (dst : Reg) : EncodedLength.Statement (.dcrR dst) := fun _ => by
  cases dst <;> decide

theorem EncodedLength.dcrM : EncodedLength.Statement .dcrM := fun _ => rfl

theorem EncodedLength.inx (rp : Pair) : EncodedLength.Statement (.inx rp) := fun _ => by
  cases rp <;> decide

theorem EncodedLength.dcx (rp : Pair) : EncodedLength.Statement (.dcx rp) := fun _ => by
  cases rp <;> decide

theorem EncodedLength.dad (rp : Pair) : EncodedLength.Statement (.dad rp) := fun _ => by
  cases rp <;> decide

theorem EncodedLength.daa : EncodedLength.Statement .daa := fun _ => rfl

theorem EncodedLength.anaR (src : Reg) : EncodedLength.Statement (.anaR src) := fun _ => by
  cases src <;> decide

theorem EncodedLength.anaM : EncodedLength.Statement .anaM := fun _ => rfl

theorem EncodedLength.ani (data : Byte) : EncodedLength.Statement (.ani data) := fun _ => twoBytes_length data (by decide)

theorem EncodedLength.xraR (src : Reg) : EncodedLength.Statement (.xraR src) := fun _ => by
  cases src <;> decide

theorem EncodedLength.xraM : EncodedLength.Statement .xraM := fun _ => rfl

theorem EncodedLength.xri (data : Byte) : EncodedLength.Statement (.xri data) := fun _ => twoBytes_length data (by decide)

theorem EncodedLength.oraR (src : Reg) : EncodedLength.Statement (.oraR src) := fun _ => by
  cases src <;> decide

theorem EncodedLength.oraM : EncodedLength.Statement .oraM := fun _ => rfl

theorem EncodedLength.ori (data : Byte) : EncodedLength.Statement (.ori data) := fun _ => twoBytes_length data (by decide)

theorem EncodedLength.cmpR (src : Reg) : EncodedLength.Statement (.cmpR src) := fun _ => by
  cases src <;> decide

theorem EncodedLength.cmpM : EncodedLength.Statement .cmpM := fun _ => rfl

theorem EncodedLength.cpi (data : Byte) : EncodedLength.Statement (.cpi data) := fun _ => twoBytes_length data (by decide)

theorem EncodedLength.rlc : EncodedLength.Statement .rlc := fun _ => rfl

theorem EncodedLength.rrc : EncodedLength.Statement .rrc := fun _ => rfl

theorem EncodedLength.ral : EncodedLength.Statement .ral := fun _ => rfl

theorem EncodedLength.rar : EncodedLength.Statement .rar := fun _ => rfl

theorem EncodedLength.cma : EncodedLength.Statement .cma := fun _ => rfl

theorem EncodedLength.cmc : EncodedLength.Statement .cmc := fun _ => rfl

theorem EncodedLength.stc : EncodedLength.Statement .stc := fun _ => rfl

theorem EncodedLength.jmp (addr : Word) : EncodedLength.Statement (.jmp addr) := fun _ => threeBytes_length addr (by decide)

theorem EncodedLength.jnz (addr : Word) : EncodedLength.Statement (.jnz addr) := fun _ => threeBytes_length addr (by decide)

theorem EncodedLength.jz (addr : Word) : EncodedLength.Statement (.jz addr) := fun _ => threeBytes_length addr (by decide)

theorem EncodedLength.jnc (addr : Word) : EncodedLength.Statement (.jnc addr) := fun _ => threeBytes_length addr (by decide)

theorem EncodedLength.jc (addr : Word) : EncodedLength.Statement (.jc addr) := fun _ => threeBytes_length addr (by decide)

theorem EncodedLength.jpo (addr : Word) : EncodedLength.Statement (.jpo addr) := fun _ => threeBytes_length addr (by decide)

theorem EncodedLength.jpe (addr : Word) : EncodedLength.Statement (.jpe addr) := fun _ => threeBytes_length addr (by decide)

theorem EncodedLength.jp (addr : Word) : EncodedLength.Statement (.jp addr) := fun _ => threeBytes_length addr (by decide)

theorem EncodedLength.jm (addr : Word) : EncodedLength.Statement (.jm addr) := fun _ => threeBytes_length addr (by decide)

theorem EncodedLength.call (addr : Word) : EncodedLength.Statement (.call addr) := fun _ => threeBytes_length addr (by decide)

theorem EncodedLength.cnz (addr : Word) : EncodedLength.Statement (.cnz addr) := fun _ => threeBytes_length addr (by decide)

theorem EncodedLength.cz (addr : Word) : EncodedLength.Statement (.cz addr) := fun _ => threeBytes_length addr (by decide)

theorem EncodedLength.cnc (addr : Word) : EncodedLength.Statement (.cnc addr) := fun _ => threeBytes_length addr (by decide)

theorem EncodedLength.cc (addr : Word) : EncodedLength.Statement (.cc addr) := fun _ => threeBytes_length addr (by decide)

theorem EncodedLength.cpo (addr : Word) : EncodedLength.Statement (.cpo addr) := fun _ => threeBytes_length addr (by decide)

theorem EncodedLength.cpe (addr : Word) : EncodedLength.Statement (.cpe addr) := fun _ => threeBytes_length addr (by decide)

theorem EncodedLength.cp (addr : Word) : EncodedLength.Statement (.cp addr) := fun _ => threeBytes_length addr (by decide)

theorem EncodedLength.cm (addr : Word) : EncodedLength.Statement (.cm addr) := fun _ => threeBytes_length addr (by decide)

theorem EncodedLength.ret : EncodedLength.Statement .ret := fun _ => rfl

theorem EncodedLength.rnz : EncodedLength.Statement .rnz := fun _ => rfl

theorem EncodedLength.rz : EncodedLength.Statement .rz := fun _ => rfl

theorem EncodedLength.rnc : EncodedLength.Statement .rnc := fun _ => rfl

theorem EncodedLength.rc : EncodedLength.Statement .rc := fun _ => rfl

theorem EncodedLength.rpo : EncodedLength.Statement .rpo := fun _ => rfl

theorem EncodedLength.rpe : EncodedLength.Statement .rpe := fun _ => rfl

theorem EncodedLength.rp : EncodedLength.Statement .rp := fun _ => rfl

theorem EncodedLength.rm : EncodedLength.Statement .rm := fun _ => rfl

theorem EncodedLength.rst (n : BitVec 3) : EncodedLength.Statement (.rst n) := fun _ => by
  revert n
  decide

theorem EncodedLength.pchl : EncodedLength.Statement .pchl := fun _ => rfl

theorem EncodedLength.push (rp : StackPair) : EncodedLength.Statement (.push rp) := fun _ => by
  cases rp <;> decide

theorem EncodedLength.pushPsw : EncodedLength.Statement .pushPsw := fun _ => rfl

theorem EncodedLength.pop (rp : StackPair) : EncodedLength.Statement (.pop rp) := fun _ => by
  cases rp <;> decide

theorem EncodedLength.popPsw : EncodedLength.Statement .popPsw := fun _ => rfl

theorem EncodedLength.xthl : EncodedLength.Statement .xthl := fun _ => rfl

theorem EncodedLength.sphl : EncodedLength.Statement .sphl := fun _ => rfl

theorem EncodedLength.inPort (port : Byte) : EncodedLength.Statement (.inPort port) := fun _ => twoBytes_length port (by decide)

theorem EncodedLength.outPort (port : Byte) : EncodedLength.Statement (.outPort port) := fun _ => twoBytes_length port (by decide)

theorem EncodedLength.ei : EncodedLength.Statement .ei := fun _ => rfl

theorem EncodedLength.di : EncodedLength.Statement .di := fun _ => rfl

theorem EncodedLength.hlt : EncodedLength.Statement .hlt := fun _ => rfl

theorem EncodedLength.nop : EncodedLength.Statement .nop := fun _ => rfl

theorem EncodedLength.undefined (op : Byte) : EncodedLength.Statement (.undefined op) := by
  intro h
  revert h
  revert op
  decide +revert

end Sys2Proof.Laws
end

