-- ==== Sys2Proof/Laws/Step.lean ====
section
/-! SUPPORT. What a step boundary decides, and what a step that answers a next state has done (spec 60_exceptions.md rule R252). -/

namespace Sys2Proof.Machine

/-! ### The single-field updates at a boundary -/

@[simp] theorem State.consumeEnv_env_tail (s : State) : s.consumeEnv.inputs = s.inputs.tail := rfl

theorem State.consumeEnv_eq (s : State) : s.consumeEnv = { s with inputs := s.inputs.tail } := rfl

@[simp] theorem State.consumeEnv_holdGranted (s : State) (e : Env) : s.consumeEnv.holdGranted e = s.holdGranted e := rfl

/-- With no hold inside the instruction, none is taken up. -/
theorem State.takeHolds_undisturbed {s : State} {e : Env} (h : s.platform.holdAgent = false ∨ e.cycleDma = []) :
    s.takeHolds e = s.setHolds [] := by
  unfold State.takeHolds
  rcases h with h | h <;> simp [h]

/-! ### What a boundary decides -/

theorem boundary_reset {s : State} (h : s.env.reset = true) : boundary s = .done s.consumeEnv.resetEvent := by
  simp [boundary, h]

theorem boundary_hold {s : State} (h : s.env.reset = false) (hg : s.holdGranted s.env = true) :
    boundary s = .done (s.consumeEnv.holdTurn s.env) := by
  simp [boundary, h, hg]

theorem boundary_interrupt {s : State} {n : Nat} (h : s.acceptsNext n) :
    boundary s = (s.consumeEnv.setHlda false).interruptTurn s.env := by
  obtain ⟨⟨h1, h2⟩, h3, h4, -⟩ := h
  have : (s.consumeEnv.setHlda false).intLatch s.env = true := by simp [State.intLatch, h3, State.consumeEnv, h4]
  simp only [boundary, h1, State.consumeEnv_holdGranted, h2, this, if_true, Bool.false_eq_true, if_false]

theorem boundary_halt {s : State} (h : s.unheld) (hi : s.intLatch s.env = false) (hh : s.halted = true) :
    boundary s = (s.consumeEnv.setHlda false).haltTurn := by
  obtain ⟨h1, h2⟩ := h
  have h3 : (s.consumeEnv.setHlda false).intLatch s.env = false := hi
  have h4 : (s.consumeEnv.setHlda false).halted = true := hh
  simp only [boundary, h1, State.consumeEnv_holdGranted, h2, h3, h4, if_true, Bool.false_eq_true, if_false]

theorem boundary_running {s : State} (h : s.unheld) (hi : s.intLatch s.env = false) (hh : s.halted = false) :
    boundary s = (s.consumeEnv.setHlda false).fetchTurn s.env := by
  obtain ⟨h1, h2⟩ := h
  have h3 : (s.consumeEnv.setHlda false).intLatch s.env = false := hi
  have h4 : (s.consumeEnv.setHlda false).halted = false := hh
  simp only [boundary, h1, State.consumeEnv_holdGranted, h2, h3, h4, Bool.false_eq_true, if_false]

/-- The state whose bytes at PC a fetching boundary reads. -/
def State.atFetch (s : State) : State := ((s.consumeEnv.setHlda false).takeHolds s.env).setEiPending false

theorem boundary_fetch {s : State} {n : Nat} (h : s.fetchesNext n) :
    boundary s = .run s.atFetch.fetchInstr.1 s.atFetch.fetchInstr.2 s.eiPending n := by
  obtain ⟨hu, hi, hh, hw⟩ := h
  rw [boundary_running hu hi hh, State.fetchTurn, hw]
  rfl

theorem State.atFetch_eq {s : State} (h : s.undisturbed) :
    s.atFetch = { s with inputs := s.inputs.tail, hlda := false, holds := [], eiPending := false } := by
  unfold State.atFetch
  rw [State.takeHolds_undisturbed (by simpa [State.undisturbed, State.consumeEnv] using h)]
  rfl

/-- Every boundary is one of the five of 60_exceptions R252. -/
theorem boundary_cases (s : State) :
    s.env.reset = true ∨ (s.env.reset = false ∧ s.holdGranted s.env = true) ∨
    (s.unheld ∧ s.env.int = true ∧ s.inte = true) ∨ (s.unheld ∧ s.intLatch s.env = false ∧ s.halted = true) ∨
    (s.unheld ∧ s.intLatch s.env = false ∧ s.halted = false) := by
  unfold State.unheld State.intLatch
  cases s.env.reset <;> cases s.holdGranted s.env <;> cases s.env.int <;> cases s.inte <;> cases s.halted <;> simp

/-! ### Completing an instruction -/

@[simp] theorem complete_regs (i : Instr) (f : Flags) (e : Bool) (n : Nat) (s : State) :
    (complete i f e n s).regs = s.regs := by unfold complete; split <;> rfl

@[simp] theorem complete_sp (i : Instr) (f : Flags) (e : Bool) (n : Nat) (s : State) :
    (complete i f e n s).sp = s.sp := by unfold complete; split <;> rfl

@[simp] theorem complete_pc (i : Instr) (f : Flags) (e : Bool) (n : Nat) (s : State) :
    (complete i f e n s).pc = s.pc := by unfold complete; split <;> rfl

@[simp] theorem complete_flags (i : Instr) (f : Flags) (e : Bool) (n : Nat) (s : State) :
    (complete i f e n s).flags = s.flags := by unfold complete; split <;> rfl

@[simp] theorem complete_inte (i : Instr) (f : Flags) (e : Bool) (n : Nat) (s : State) :
    (complete i f e n s).inte = ((e && !isDi i) || s.inte) := by
  unfold complete
  cases e && !isDi i <;> rfl

@[simp] theorem complete_halted (i : Instr) (f : Flags) (e : Bool) (n : Nat) (s : State) :
    (complete i f e n s).halted = s.halted := by unfold complete; split <;> rfl

@[simp] theorem complete_eiPending (i : Instr) (f : Flags) (e : Bool) (n : Nat) (s : State) :
    (complete i f e n s).eiPending = s.eiPending := by unfold complete; split <;> rfl

@[simp] theorem complete_hlda (i : Instr) (f : Flags) (e : Bool) (n : Nat) (s : State) :
    (complete i f e n s).hlda = s.hlda := by unfold complete; split <;> rfl

@[simp] theorem complete_holds (i : Instr) (f : Flags) (e : Bool) (n : Nat) (s : State) :
    (complete i f e n s).holds = [] := by unfold complete; split <;> rfl

@[simp] theorem complete_mem (i : Instr) (f : Flags) (e : Bool) (n : Nat) (s : State) :
    (complete i f e n s).mem = s.mem := by unfold complete; split <;> rfl

@[simp] theorem complete_trace (i : Instr) (f : Flags) (e : Bool) (n : Nat) (s : State) :
    (complete i f e n s).trace = s.trace := by unfold complete; split <;> rfl

@[simp] theorem complete_clock (i : Instr) (f : Flags) (e : Bool) (n : Nat) (s : State) :
    (complete i f e n s).clock = s.clock + (statesOf i f + n) := by unfold complete; split <;> rfl

@[simp] theorem complete_draws (i : Instr) (f : Flags) (e : Bool) (n : Nat) (s : State) :
    (complete i f e n s).draws = s.draws := by unfold complete; split <;> rfl

@[simp] theorem complete_inputs (i : Instr) (f : Flags) (e : Bool) (n : Nat) (s : State) :
    (complete i f e n s).inputs = s.inputs := by unfold complete; split <;> rfl

@[simp] theorem complete_platform (i : Instr) (f : Flags) (e : Bool) (n : Nat) (s : State) :
    (complete i f e n s).platform = s.platform := by unfold complete; split <;> rfl

/-- A finished instruction answers a next state exactly when its meaning does. -/
theorem finish_next {i : Instr} {f : Flags} {e : Bool} {n : Nat} {r : Result} {t : State}
    (h : finish i f e n r = .next t) : ∃ u, r = .next u ∧ t = complete i f e n u := by
  cases r with
  | next u =>
    simp only [finish, Host.Outcome.next.injEq] at h
    exact ⟨u, rfl, h.symm⟩
  | fault _ => cases h
  | refused _ => cases h

/-! ### What a step has done -/

theorem step_of_boundary_done {s t : State} (h : boundary s = .done t) : step s = .next t := by
  simp only [step, h]

theorem step_of_boundary_stop {s : State} {f : Fault} (h : boundary s = .stop f) : step s = .fault f := by
  simp only [step, h]

theorem step_of_boundary_run {s t : State} {i : Instr} {e : Bool} {n : Nat} (h : boundary s = .run i t e n) :
    step s = finish i t.flags e n (exec i t) := by
  simp only [step, h]

/-- What a step that answers a next state has done: the RESET event, a hold, an interrupt, nothing while halted, or an
ordinary instruction (60_exceptions R252). -/
theorem step_next_cases {s t : State} (h : step s = .next t) :
    (s.env.reset = true ∧ t = s.consumeEnv.resetEvent) ∨
    (s.env.reset = false ∧ s.holdGranted s.env = true ∧ t = s.consumeEnv.holdTurn s.env) ∨
    (∃ n i u v, s.acceptsNext n ∧
      ((s.consumeEnv.setHlda false).takeHolds s.env).takeInterrupt s.env.intBytes = .ok (i, u) ∧ exec i u = .next v ∧
      t = complete i u.flags false n v) ∨
    (s.unheld ∧ s.intLatch s.env = false ∧ s.halted = true ∧ t = s.consumeEnv.setHlda false) ∨
    (∃ n v, s.fetchesNext n ∧ exec s.atFetch.fetchInstr.1 s.atFetch.fetchInstr.2 = .next v ∧
      t = complete s.atFetch.fetchInstr.1 s.atFetch.fetchInstr.2.flags s.eiPending n v) := by
  rcases boundary_cases s with hr | ⟨hr, hg⟩ | ⟨hu, hi, he⟩ | ⟨hu, hl, hh⟩ | ⟨hu, hl, hh⟩
  · rw [step_of_boundary_done (boundary_reset hr)] at h
    exact .inl ⟨hr, (Host.Outcome.next.inj h).symm⟩
  · rw [step_of_boundary_done (boundary_hold hr hg)] at h
    exact .inr (.inl ⟨hr, hg, (Host.Outcome.next.inj h).symm⟩)
  · refine .inr (.inr (.inl ?_))
    cases hw : s.env.waits with
    | none =>
      have hb : boundary s = .stop (.stuckWait (s.consumeEnv.setHlda false)) := by
        have hl : (s.consumeEnv.setHlda false).intLatch s.env = true := by simp [State.intLatch, hi, State.consumeEnv, he]
        simp only [boundary, hu.1, State.consumeEnv_holdGranted, hu.2, hl, if_true, Bool.false_eq_true, if_false,
          State.interruptTurn, hw]
      rw [step_of_boundary_stop hb] at h
      cases h
    | some n =>
      have ha : s.acceptsNext n := ⟨hu, hi, he, hw⟩
      have hb := boundary_interrupt ha
      simp only [State.interruptTurn, hw] at hb
      cases ht : ((s.consumeEnv.setHlda false).takeHolds s.env).takeInterrupt s.env.intBytes with
      | error f =>
        rw [ht] at hb
        rw [step_of_boundary_stop hb] at h
        cases h
      | ok p =>
        obtain ⟨i, u⟩ := p
        rw [ht] at hb
        rw [step_of_boundary_run hb] at h
        obtain ⟨v, hv, rfl⟩ := finish_next h
        exact ⟨n, i, u, v, ha, rfl, hv, rfl⟩
  · refine .inr (.inr (.inr (.inl ?_)))
    have hb := boundary_halt hu hl hh
    unfold State.haltTurn at hb
    split at hb
    · rw [step_of_boundary_done hb] at h
      exact ⟨hu, hl, hh, (Host.Outcome.next.inj h).symm⟩
    · rw [step_of_boundary_stop hb] at h
      cases h
  · refine .inr (.inr (.inr (.inr ?_)))
    cases hw : s.env.waits with
    | none =>
      have hb := boundary_running hu hl hh
      simp only [State.fetchTurn, hw] at hb
      rw [step_of_boundary_stop hb] at h
      cases h
    | some n =>
      have hf : s.fetchesNext n := ⟨hu, hl, hh, hw⟩
      rw [step_of_boundary_run (boundary_fetch hf)] at h
      obtain ⟨v, hv, rfl⟩ := finish_next h
      exact ⟨n, v, hf, hv, rfl⟩

end Sys2Proof.Machine
end

