-- ==== Sys2Proof/Laws/Timing.lean ====
section
/-! SUPPORT. What the states of the machine cycles add up to (spec 50_machine_cycles.md rules R221, R226, R232). -/

namespace Sys2Proof.Machine

/-- M1 has four or five states (R221). -/
theorem fetchStates_range (i : Instr) : fetchStates i = 4 ∨ fetchStates i = 5 := by
  cases i
  case undefined op =>
    simp only [fetchStates]
    split
    · exact .inr rfl
    · exact .inl rfl
  all_goals first
    | exact .inl rfl
    | exact .inr rfl

theorem laterStates_of_ne {i : Instr} (h : i ≠ .xthl) (n : Nat) : laterStates i n = List.replicate n 3 := if_neg h

@[simp] theorem laterStates_xthl (n : Nat) : laterStates .xthl (n + 1) = List.replicate n 3 ++ [5] := rfl

/-- Every cycle after M1 of an instruction other than XTHL has three states (R221). -/
theorem laterStates_three {i : Instr} (h : i ≠ .xthl) {n m : Nat} (hm : m ∈ laterStates i n) : m = 3 := by
  rw [laterStates_of_ne h] at hm
  exact List.eq_of_mem_replicate hm

/-- The states after M1 of an instruction other than XTHL (R221). -/
theorem laterStates_sum {i : Instr} (h : i ≠ .xthl) (n : Nat) : (laterStates i n).sum = 3 * n := by
  rw [laterStates_of_ne h, List.sum_replicate]
  exact Nat.mul_comm n 3

theorem laterStates_length {i : Instr} (h : i ≠ .xthl) (n : Nat) : (laterStates i n).length = n := by
  rw [laterStates_of_ne h, List.length_replicate]

/-- A machine cycle lasts its active states and its wait states (R221, R232). -/
theorem statesInCycle_length {active : Nat} (waits : Nat) (h3 : 3 ≤ active) (h5 : active ≤ 5) :
    (statesInCycle active waits).length = active + waits := by
  simp only [statesInCycle, List.length_append, List.length_replicate, List.length_take, List.length_cons,
    List.length_nil]
  omega

end Sys2Proof.Machine
end

