-- ==== Sys2Proof/Tests/Slice0.lean ====
section
/-! SUPPORT. The model's own tests: the well-formedness smoke test, words written out from spec/30_encoding.md rule R77, one step
on small states (the vectors V<n> of spec/95_test_vectors.md; the others calculated by hand from the rule named), and for every
statement with hypotheses a state that meets them. -/

namespace Sys2Proof.Machine.Tests

/-! ### Small states -/

/-- Every register 00H. -/
def zeros : Regs := { b := 0, c := 0, d := 0, e := 0, h := 0, l := 0, a := 0 }

/-- Every flag 0. -/
def clear : Flags := { z := false, s := false, p := false, cy := false, ac := false }

/-- Every flag 1. -/
def allSet : Flags := { z := true, s := true, p := true, cy := true, ac := true }

/-- One byte placed in memory. -/
def put (s : State) (addr : Word) (v : Byte) : State := s.store addr v

/-- Bytes placed in memory from an address on. -/
def putAll (s : State) (addr : Word) : List Byte → State
  | [] => s
  | b :: bs => putAll (put s addr b) (addr + 1) bs

/-- The state before a vector: the bytes at PC, SP = F000H, everything else 0 (95_test_vectors, conventions of part 2). -/
def cpu (pc : Word) (bytes : List Byte) : State := putAll { State.reset with pc := pc, sp := 0xF000 } pc bytes

/-- What `f` sees after one step that answers a next state. -/
def after {α : Type} (s : State) (f : State → α) : Option α :=
  match step s with
  | .next t => some (f t)
  | .fault _ => none
  | .refused _ => none

/-- The name of the stop of one step, with PC in the stopped state. -/
def stopOf (s : State) : Option (String × Word) :=
  match step s with
  | .next _ => none
  | .fault (.undefinedOpcode _ u) => some ("UndefinedOpcode", u.pc)
  | .fault (.badInterruptInstruction _ u) => some ("BadInterruptInstruction", u.pc)
  | .fault (.stuckHalted u) => some ("halted", u.pc)
  | .fault (.stuckWait u) => some ("wait", u.pc)
  | .refused _ => none

/-- The instruction that a list of bytes is, with no byte left over. -/
def decodes (bytes : List Byte) : Option Instr :=
  match decode bytes with
  | .ok (i, []) => some i
  | .ok (_, _ :: _) => none
  | .error _ => none

/-! ### Well-formedness -/

/-- A defined opcode may not be called undefined (30_encoding R78). -/
theorem test_wf_refuses_defined_opcode : (Instr.undefined 0x3E).wf = false ∧ (Instr.undefined 0x00).wf = false := by decide

theorem test_wf_accepts_undefined_opcode : (Instr.undefined 0x08).wf = true ∧ (Instr.undefined 0xFD).wf = true := by decide

/-! ### Words written out from 30_encoding R77, one for every constructor -/

theorem test_decode_data_transfer :
    [[0b01000001], [0b01000110], [0b01110111], [0b00010110, 0x9C], [0b00110110, 0x9C], [0b00110001, 0x34, 0x12],
      [0b00111010, 0x34, 0x12], [0b00110010, 0x34, 0x12], [0b00101010, 0x34, 0x12], [0b00100010, 0x34, 0x12],
      [0b00011010], [0b00000010], [0b11101011]].map decodes =
    [some (.movRR .b .c), some (.movRM .b), some (.movMR .a), some (.mviR .d 0x9C), some (.mviM 0x9C),
      some (.lxi .sp 0x1234), some (.lda 0x1234), some (.sta 0x1234), some (.lhld 0x1234), some (.shld 0x1234),
      some (.ldax .de), some (.stax .bc), some .xchg] := by
  decide

theorem test_decode_arithmetic :
    [[0b10000101], [0b10000110], [0b11000110, 0x9C], [0b10001100], [0b10001110], [0b11001110, 0x9C], [0b10010011],
      [0b10010110], [0b11010110, 0x9C], [0b10011010], [0b10011110], [0b11011110, 0x9C]].map decodes =
    [some (.addR .l), some .addM, some (.adi 0x9C), some (.adcR .h), some .adcM, some (.aci 0x9C), some (.subR .e),
      some .subM, some (.sui 0x9C), some (.sbbR .d), some .sbbM, some (.sbi 0x9C)] := by
  decide

theorem test_decode_increment_and_pairs :
    [[0b00001100], [0b00110100], [0b00101101], [0b00110101], [0b00010011], [0b00111011], [0b00101001],
      [0b00100111]].map decodes =
    [some (.inrR .c), some .inrM, some (.dcrR .l), some .dcrM, some (.inx .de), some (.dcx .sp), some (.dad .hl),
      some .daa] := by
  decide

theorem test_decode_logical :
    [[0b10100000], [0b10100110], [0b11100110, 0x9C], [0b10101001], [0b10101110], [0b11101110, 0x9C], [0b10110111],
      [0b10110110], [0b11110110, 0x9C], [0b10111010], [0b10111110], [0b11111110, 0x9C]].map decodes =
    [some (.anaR .b), some .anaM, some (.ani 0x9C), some (.xraR .c), some .xraM, some (.xri 0x9C), some (.oraR .a),
      some .oraM, some (.ori 0x9C), some (.cmpR .d), some .cmpM, some (.cpi 0x9C)] := by
  decide

theorem test_decode_rotate :
    [[0b00000111], [0b00001111], [0b00010111], [0b00011111], [0b00101111], [0b00111111], [0b00110111]].map decodes =
    [some .rlc, some .rrc, some .ral, some .rar, some .cma, some .cmc, some .stc] := by
  decide

theorem test_decode_jump :
    [[0b11000011, 0x34, 0x12], [0b11000010, 0x34, 0x12], [0b11001010, 0x34, 0x12], [0b11010010, 0x34, 0x12],
      [0b11011010, 0x34, 0x12], [0b11100010, 0x34, 0x12], [0b11101010, 0x34, 0x12], [0b11110010, 0x34, 0x12],
      [0b11111010, 0x34, 0x12]].map decodes =
    [some (.jmp 0x1234), some (.jnz 0x1234), some (.jz 0x1234), some (.jnc 0x1234), some (.jc 0x1234),
      some (.jpo 0x1234), some (.jpe 0x1234), some (.jp 0x1234), some (.jm 0x1234)] := by
  decide

theorem test_decode_call :
    [[0b11001101, 0x34, 0x12], [0b11000100, 0x34, 0x12], [0b11001100, 0x34, 0x12], [0b11010100, 0x34, 0x12],
      [0b11011100, 0x34, 0x12], [0b11100100, 0x34, 0x12], [0b11101100, 0x34, 0x12], [0b11110100, 0x34, 0x12],
      [0b11111100, 0x34, 0x12]].map decodes =
    [some (.call 0x1234), some (.cnz 0x1234), some (.cz 0x1234), some (.cnc 0x1234), some (.cc 0x1234),
      some (.cpo 0x1234), some (.cpe 0x1234), some (.cp 0x1234), some (.cm 0x1234)] := by
  decide

theorem test_decode_return :
    [[0b11001001], [0b11000000], [0b11001000], [0b11010000], [0b11011000], [0b11100000], [0b11101000], [0b11110000],
      [0b11111000], [0b11101111], [0b11101001]].map decodes =
    [some .ret, some .rnz, some .rz, some .rnc, some .rc, some .rpo, some .rpe, some .rp, some .rm, some (.rst 5),
      some .pchl] := by
  decide

theorem test_decode_stack_io_control :
    [[0b11010101], [0b11110101], [0b11100001], [0b11110001], [0b11100011], [0b11111001], [0b11011011, 0x9C],
      [0b11010011, 0x9C], [0b11111011], [0b11110011], [0b01110110], [0b00000000], [0b11001011]].map decodes =
    [some (.push .de), some .pushPsw, some (.pop .hl), some .popPsw, some .xthl, some .sphl, some (.inPort 0x9C),
      some (.outPort 0x9C), some .ei, some .di, some .hlt, some .nop, some (.undefined 0xCB)] := by
  decide

/-- A list of bytes that ends inside an instruction, and one with no byte, are refused by name. -/
theorem test_decode_refuses :
    decode [0xC3, 0x00] = .error (.truncated 0xC3) ∧ decode [0x3E] = .error (.truncated 0x3E) ∧
    decode [] = .error .noBytes := by
  decide

/-! ### One step: the vectors V<n> of spec/95_test_vectors.md -/

theorem test_v1_mov_b_c :
    after ({ cpu 0x0100 [0x41] with regs := { zeros with b := 0x12, c := 0x34 } }) (fun t => t.regs.b) = some 0x34 := by
  decide

theorem test_v5_mov_l_m :
    after ({ put (cpu 0x0100 [0x6E]) 0x2000 0x5A with regs := { zeros with h := 0x20 } })
      (fun t => t.regs.l) = some 0x5A := by
  decide

theorem test_v7_mov_m_h :
    after ({ cpu 0x0100 [0x74] with regs := { zeros with h := 0x20, l := 0x01 } })
      (fun t => t.mem.read 0x2001) = some 0x20 := by
  decide

theorem test_v12_mvi_b_12h_across_ffffh :
    after (cpu 0xFFFF [0x06, 0x12]) (fun t => t.regs.b) = some 0x12 := by
  decide

theorem test_v11_mvi_m_ffh :
    after ({ cpu 0x0100 [0x36, 0xFF] with regs := { zeros with h := 0x30, l := 0x10 } })
      (fun t => t.mem.read 0x3010) = some 0xFF := by
  decide

theorem test_v13_lxi_h_1234h :
    after (cpu 0x0100 [0x21, 0x34, 0x12]) (fun t => (t.regs.h, t.regs.l)) = some (0x12, 0x34) := by
  decide

theorem test_v16_lda_2050h :
    after (put (cpu 0x0100 [0x3A, 0x50, 0x20]) 0x2050 0x9C) (fun t => t.regs.a) = some 0x9C := by
  decide

theorem test_v17_sta_2100h :
    after ({ cpu 0x0100 [0x32, 0x00, 0x21] with regs := { zeros with a := 0x42 } })
      (fun t => t.mem.read 0x2100) = some 0x42 := by
  decide

theorem test_v27_sta_to_rom :
    after ({ put (cpu 0x0100 [0x32, 0x00, 0x00]) 0x0000 0xC3 with
      regs := { zeros with a := 0x42 }, platform := { regions := [{ first := 0x0000, last := 0x0000, kind := .rom }] } })
      (fun t => t.mem.read 0x0000) = some 0xC3 := by
  decide

theorem test_v19_lhld_ffffh :
    after (put (put (cpu 0x0100 [0x2A, 0xFF, 0xFF]) 0xFFFF 0x11) 0x0000 0x22)
      (fun t => (t.regs.h, t.regs.l)) = some (0x22, 0x11) := by
  decide

theorem test_v20_shld_010ah :
    after ({ cpu 0x0100 [0x22, 0x0A, 0x01] with regs := { zeros with h := 0xAE, l := 0x29 } })
      (fun t => (t.mem.read 0x010A, t.mem.read 0x010B)) = some (0x29, 0xAE) := by
  decide

theorem test_v23_ldax_d :
    after ({ put (cpu 0x0100 [0x1A]) 0x938B 0x11 with regs := { zeros with d := 0x93, e := 0x8B } })
      (fun t => t.regs.a) = some 0x11 := by
  decide

theorem test_v24_stax_b :
    after ({ cpu 0x0100 [0x02] with regs := { zeros with b := 0x3F, c := 0x16, a := 0x55 } })
      (fun t => t.mem.read 0x3F16) = some 0x55 := by
  decide

theorem test_v26_xchg :
    after ({ cpu 0x0100 [0xEB] with regs := { zeros with d := 0x33, e := 0x55, l := 0xFF } })
      (fun t => (t.regs.d, t.regs.e, t.regs.h, t.regs.l)) = some (0x00, 0xFF, 0x33, 0x55) := by
  decide

theorem test_v31_add_b :
    after ({ cpu 0x0100 [0x80] with regs := { zeros with b := 0x01, a := 0x7F } })
      (fun t => (t.regs.a, t.flags)) = some (0x80, ⟨false, true, false, false, true⟩) := by
  decide

theorem test_v32_add_c :
    after ({ cpu 0x0100 [0x81] with regs := { zeros with c := 0x08, a := 0x08 }, flags := { clear with cy := true } })
      (fun t => (t.regs.a, t.flags)) = some (0x10, ⟨false, false, false, false, true⟩) := by
  decide

theorem test_v29_add_m :
    after ({ put (cpu 0x0100 [0x86]) 0x2000 0x01 with regs := { zeros with h := 0x20, a := 0xFF } })
      (fun t => (t.regs.a, t.flags)) = some (0x00, ⟨true, false, true, true, true⟩) := by
  decide

theorem test_v34_adi_00h :
    after ({ cpu 0x0100 [0xC6, 0x00] with flags := { clear with s := true, cy := true, ac := true } })
      (fun t => t.flags) = some ⟨true, false, true, false, false⟩ := by
  decide

theorem test_v36_adc_b :
    after ({ cpu 0x0100 [0x88] with regs := { zeros with a := 0xFF }, flags := { clear with cy := true } })
      (fun t => (t.regs.a, t.flags)) = some (0x00, ⟨true, false, true, true, true⟩) := by
  decide

theorem test_v37_adc_m :
    after ({ put (cpu 0x0100 [0x8E]) 0x2000 0x0E with
      regs := { zeros with h := 0x20, a := 0x01 }, flags := { clear with cy := true } })
      (fun t => (t.regs.a, t.flags)) = some (0x10, ⟨false, false, false, false, true⟩) := by
  decide

theorem test_v38_aci_beh :
    after ({ cpu 0x0100 [0xCE, 0xBE] with regs := { zeros with a := 0x56 }, flags := { clear with cy := true } })
      (fun t => (t.regs.a, t.flags)) = some (0x15, ⟨false, false, false, true, true⟩) := by
  decide

theorem test_v40_sub_b :
    after ({ cpu 0x0100 [0x90] with regs := { zeros with b := 0x3E, a := 0x3E } })
      (fun t => (t.regs.a, t.flags)) = some (0x00, ⟨true, false, true, false, true⟩) := by
  decide

theorem test_v42_sub_m :
    after ({ put (cpu 0x0100 [0x96]) 0x2000 0x01 with regs := { zeros with h := 0x20 } })
      (fun t => (t.regs.a, t.flags)) = some (0xFF, ⟨false, true, true, true, false⟩) := by
  decide

theorem test_v45_sui_01h :
    after ({ cpu 0x0100 [0xD6, 0x01] with regs := { zeros with a := 0x10 } })
      (fun t => (t.regs.a, t.flags)) = some (0x0F, ⟨false, false, true, false, false⟩) := by
  decide

theorem test_v47_sbb_b :
    after ({ cpu 0x0100 [0x98] with regs := { zeros with b := 0xFF }, flags := { clear with cy := true } })
      (fun t => t.flags) = some ⟨true, false, true, true, false⟩ := by
  decide

theorem test_v48_sbb_m :
    after ({ put (cpu 0x0100 [0x9E]) 0x2000 0x0F with
      regs := { zeros with h := 0x20, a := 0x10 }, flags := { clear with cy := true } })
      (fun t => (t.regs.a, t.flags)) = some (0x00, ⟨true, false, true, false, false⟩) := by
  decide

theorem test_v50_sbi_00h :
    after (cpu 0x0100 [0xDE, 0x00]) (fun t => t.flags) = some ⟨true, false, true, false, true⟩ := by
  decide

theorem test_v53_inr_a :
    after ({ cpu 0x0100 [0x3C] with regs := { zeros with a := 0xFF }, flags := { clear with cy := true } })
      (fun t => (t.regs.a, t.flags)) = some (0x00, ⟨true, false, true, true, true⟩) := by
  decide

theorem test_v55_inr_m :
    after ({ put (cpu 0x0100 [0x34]) 0x2000 0x0F with regs := { zeros with h := 0x20 } })
      (fun t => (t.mem.read 0x2000, t.flags)) = some (0x10, ⟨false, false, false, false, true⟩) := by
  decide

theorem test_v57_dcr_b :
    after (cpu 0x0100 [0x05]) (fun t => (t.regs.b, t.flags)) = some (0xFF, ⟨false, true, true, false, false⟩) := by
  decide

theorem test_v60_dcr_m :
    after ({ put (cpu 0x0100 [0x35]) 0x2000 0x00 with regs := { zeros with h := 0x20 } })
      (fun t => (t.mem.read 0x2000, t.flags)) = some (0xFF, ⟨false, true, true, false, false⟩) := by
  decide

theorem test_v62_inx_h :
    after ({ cpu 0x0100 [0x23] with regs := { zeros with h := 0xFF, l := 0xFF } })
      (fun t => (t.regs.h, t.regs.l, t.flags)) = some (0x00, 0x00, ⟨false, false, false, false, false⟩) := by
  decide

theorem test_v67_dcx_sp :
    after ({ cpu 0x0100 [0x3B] with sp := 0x0000 }) (fun t => t.sp) = some 0xFFFF := by
  decide

theorem test_v71_dad_d :
    after ({ cpu 0x0100 [0x19] with
      regs := { zeros with e := 0x01, h := 0xFF, l := 0xFF }, flags := { clear with s := true } })
      (fun t => (t.regs.h, t.regs.l, t.flags)) = some (0x00, 0x00, ⟨false, true, false, true, false⟩) := by
  decide

theorem test_v72_dad_d :
    after ({ cpu 0x0100 [0x19] with
      regs := { zeros with e := 0x01, h := 0x12, l := 0x34 }, flags := { clear with cy := true } })
      (fun t => (t.regs.l, t.flags)) = some (0x35, ⟨false, false, false, false, false⟩) := by
  decide

theorem test_v79_daa :
    after ({ cpu 0x0100 [0x27] with regs := { zeros with a := 0xFA } })
      (fun t => (t.regs.a, t.flags)) = some (0x60, ⟨false, false, true, true, true⟩) := by
  decide

theorem test_v73_daa :
    after ({ cpu 0x0100 [0x27] with regs := { zeros with a := 0x9B } })
      (fun t => (t.regs.a, t.flags)) = some (0x01, ⟨false, false, false, true, true⟩) := by
  decide

theorem test_v82_ana_c :
    after ({ cpu 0x0100 [0xA1] with regs := { zeros with c := 0x0F, a := 0xFC }, flags := { clear with cy := true } })
      (fun t => (t.regs.a, t.flags)) = some (0x0C, ⟨false, false, true, false, false⟩) := by
  decide

theorem test_v83_ana_m :
    after ({ put (cpu 0x0100 [0xA6]) 0x2000 0x0F with
      regs := { zeros with h := 0x20, a := 0xF0 }, flags := { clear with ac := true } })
      (fun t => (t.regs.a, t.flags)) = some (0x00, ⟨true, false, true, false, false⟩) := by
  decide

theorem test_v85_ani_f0h :
    after ({ cpu 0x0100 [0xE6, 0xF0] with regs := { zeros with a := 0x35 }, flags := { clear with cy := true } })
      (fun t => (t.regs.a, t.flags)) = some (0x30, ⟨false, false, true, false, false⟩) := by
  decide

theorem test_v87_xra_a :
    after ({ cpu 0x0100 [0xAF] with
      regs := { zeros with a := 0x37 }, flags := { clear with s := true, cy := true, ac := true } })
      (fun t => (t.regs.a, t.flags)) = some (0x00, ⟨true, false, true, false, false⟩) := by
  decide

theorem test_v88_xra_m :
    after ({ put (cpu 0x0100 [0xAE]) 0x2000 0x0F with regs := { zeros with h := 0x20, a := 0xFF } })
      (fun t => (t.regs.a, t.flags)) = some (0xF0, ⟨false, true, true, false, false⟩) := by
  decide

theorem test_v89_xri_81h :
    after ({ cpu 0x0100 [0xEE, 0x81] with regs := { zeros with a := 0x3B } })
      (fun t => (t.regs.a, t.flags)) = some (0xBA, ⟨false, true, false, false, false⟩) := by
  decide

theorem test_v90_ora_c :
    after ({ cpu 0x0100 [0xB1] with regs := { zeros with c := 0x0F, a := 0x33 }, flags := { clear with cy := true } })
      (fun t => (t.regs.a, t.flags)) = some (0x3F, ⟨false, false, true, false, false⟩) := by
  decide

theorem test_v91_ora_m :
    after ({ put (cpu 0x0100 [0xB6]) 0x2000 0x00 with regs := { zeros with h := 0x20 } })
      (fun t => t.flags) = some ⟨true, false, true, false, false⟩ := by
  decide

theorem test_v93_ori_0fh :
    after ({ cpu 0x0100 [0xF6, 0x0F] with regs := { zeros with a := 0xB5 } })
      (fun t => (t.regs.a, t.flags)) = some (0xBF, ⟨false, true, false, false, false⟩) := by
  decide

theorem test_v96_cmp_e :
    after ({ cpu 0x0100 [0xBB] with regs := { zeros with e := 0x05, a := 0x02 } })
      (fun t => t.flags) = some ⟨false, true, false, true, false⟩ := by
  decide

theorem test_v98_cmp_m :
    after ({ put (cpu 0x0100 [0xBE]) 0x2000 0x05 with regs := { zeros with h := 0x20, a := 0x02 } })
      (fun t => t.flags) = some ⟨false, true, false, true, false⟩ := by
  decide

theorem test_v100_cpi_40h :
    after ({ cpu 0x0100 [0xFE, 0x40] with regs := { zeros with a := 0x4A } })
      (fun t => t.flags) = some ⟨false, false, true, false, true⟩ := by
  decide

theorem test_v103_rlc :
    after ({ cpu 0x0100 [0x07] with regs := { zeros with a := 0x01 }, flags := { clear with z := true, cy := true } })
      (fun t => (t.regs.a, t.flags)) = some (0x02, ⟨true, false, false, false, false⟩) := by
  decide

theorem test_v105_rrc :
    after ({ cpu 0x0100 [0x0F] with regs := { zeros with a := 0x01 } })
      (fun t => (t.regs.a, t.flags)) = some (0x80, ⟨false, false, false, true, false⟩) := by
  decide

theorem test_v107_ral :
    after ({ cpu 0x0100 [0x17] with flags := { clear with cy := true } })
      (fun t => (t.regs.a, t.flags)) = some (0x01, ⟨false, false, false, false, false⟩) := by
  decide

theorem test_v109_rar :
    after ({ cpu 0x0100 [0x1F] with regs := { zeros with a := 0x01 } })
      (fun t => (t.regs.a, t.flags)) = some (0x00, ⟨false, false, false, true, false⟩) := by
  decide

theorem test_v110_cma :
    after ({ cpu 0x0100 [0x2F] with regs := { zeros with a := 0x51 }, flags := { clear with z := true, cy := true } })
      (fun t => (t.regs.a, t.flags)) = some (0xAE, ⟨true, false, false, true, false⟩) := by
  decide

theorem test_v112_cmc :
    after (cpu 0x0100 [0x3F]) (fun t => t.flags) = some ⟨false, false, false, true, false⟩ := by
  decide

theorem test_v113_stc :
    after (cpu 0x0100 [0x37]) (fun t => t.flags) = some ⟨false, false, false, true, false⟩ := by
  decide

theorem test_v115_jmp_3e00h :
    after (cpu 0x0100 [0xC3, 0x00, 0x3E]) (fun t => t.pc) = some 0x3E00 := by
  decide

theorem test_v117_jnz_1234h :
    after (cpu 0x0100 [0xC2, 0x34, 0x12]) (fun t => t.pc) = some 0x1234 := by
  decide

theorem test_v119_jz_1234h :
    after ({ cpu 0x0100 [0xCA, 0x34, 0x12] with flags := { clear with z := true } }) (fun t => t.pc) = some 0x1234 := by
  decide

theorem test_v122_jnc_1234h :
    after ({ cpu 0x0100 [0xD2, 0x34, 0x12] with flags := { clear with cy := true } })
      (fun t => t.pc) = some 0x0103 := by
  decide

theorem test_v123_jc_1234h :
    after ({ cpu 0x0100 [0xDA, 0x34, 0x12] with flags := { clear with cy := true } })
      (fun t => t.pc) = some 0x1234 := by
  decide

theorem test_v125_jpo_1234h :
    after (cpu 0x0100 [0xE2, 0x34, 0x12]) (fun t => t.pc) = some 0x1234 := by
  decide

theorem test_v128_jpe_1234h :
    after (cpu 0x0100 [0xEA, 0x34, 0x12]) (fun t => t.pc) = some 0x0103 := by
  decide

theorem test_v130_jp_1234h :
    after ({ cpu 0x0100 [0xF2, 0x34, 0x12] with flags := { clear with s := true } }) (fun t => t.pc) = some 0x0103 := by
  decide

theorem test_v131_jm_1234h :
    after ({ cpu 0x0100 [0xFA, 0x34, 0x12] with flags := { clear with s := true } }) (fun t => t.pc) = some 0x1234 := by
  decide

theorem test_v134_call_0000h_sp_0001h :
    after ({ cpu 0x0100 [0xCD, 0x00, 0x00] with sp := 0x0001 })
      (fun t => (t.pc, t.sp, t.mem.read 0x0000, t.mem.read 0xFFFF)) = some (0x0000, 0xFFFF, 0x01, 0x03) := by
  decide

theorem test_v135_cnz_3000h :
    after ({ cpu 0x0100 [0xC4, 0x00, 0x30] with sp := 0x2400 })
      (fun t => (t.pc, t.sp, t.mem.read 0x23FE, t.mem.read 0x23FF)) = some (0x3000, 0x23FE, 0x03, 0x01) := by
  decide

theorem test_v137_cc_3000h :
    after ({ cpu 0x0100 [0xDC, 0x00, 0x30] with sp := 0x2400, flags := { clear with cy := true } })
      (fun t => (t.pc, t.sp, t.mem.read 0x23FE, t.mem.read 0x23FF)) = some (0x3000, 0x23FE, 0x03, 0x01) := by
  decide

theorem test_v138_cm_3000h :
    after ({ cpu 0x0100 [0xFC, 0x00, 0x30] with sp := 0x2400 }) (fun t => t.pc) = some 0x0103 := by
  decide

theorem test_v140_ret_sp_ffffh :
    after ({ put (put (cpu 0x0100 [0xC9]) 0xFFFF 0x34) 0x0000 0x12 with sp := 0xFFFF })
      (fun t => (t.pc, t.sp)) = some (0x1234, 0x0001) := by
  decide

theorem test_v142_rnz :
    after ({ put (put (cpu 0x0300 [0xC0]) 0x23FE 0x03) 0x23FF 0x01 with sp := 0x23FE, flags := { clear with z := true } })
      (fun t => t.pc) = some 0x0301 := by
  decide

theorem test_v143_rpe :
    after ({ put (put (cpu 0x0100 [0xE8]) 0x23FE 0x03) 0x23FF 0x01 with sp := 0x23FE, flags := { clear with p := true } })
      (fun t => (t.pc, t.sp)) = some (0x0103, 0x2400) := by
  decide

theorem test_v144_rst_2 :
    after ({ cpu 0x0150 [0xD7] with sp := 0x2400 })
      (fun t => (t.pc, t.sp, t.mem.read 0x23FE, t.mem.read 0x23FF)) = some (0x0010, 0x23FE, 0x51, 0x01) := by
  decide

theorem test_v147_pchl :
    after ({ cpu 0x0100 [0xE9] with regs := { zeros with h := 0x41, l := 0x3E } }) (fun t => t.pc) = some 0x413E := by
  decide

theorem test_v149_push_b_sp_0001h :
    after ({ cpu 0x0100 [0xC5] with regs := { zeros with b := 0x12, c := 0x34 }, sp := 0x0001 })
      (fun t => (t.sp, t.mem.read 0x0000, t.mem.read 0xFFFF)) = some (0xFFFF, 0x12, 0x34) := by
  decide

theorem test_v153_push_psw :
    after ({ cpu 0x0100 [0xF5] with
      regs := { zeros with a := 0xFF }, sp := 0x2400, flags := allSet })
      (fun t => (t.sp, t.mem.read 0x23FE, t.mem.read 0x23FF)) = some (0x23FE, 0xD7, 0xFF) := by
  decide

theorem test_v154_pop_h :
    after ({ put (put (cpu 0x0100 [0xE1]) 0x1239 0x3D) 0x123A 0x93 with sp := 0x1239 })
      (fun t => (t.regs.h, t.regs.l, t.sp)) = some (0x93, 0x3D, 0x123B) := by
  decide

theorem test_v158_pop_psw :
    after ({ put (put (cpu 0x0100 [0xF1]) 0x2C00 0x28) 0x2C01 0x34 with
      sp := 0x2C00, flags := allSet })
      (fun t => (t.regs.a, t.sp, t.flags)) = some (0x34, 0x2C02, ⟨false, false, false, false, false⟩) := by
  decide

theorem test_v159_xthl :
    after ({ put (put (cpu 0x0100 [0xE3]) 0x10AD 0xF0) 0x10AE 0x0D with
      regs := { zeros with h := 0x0B, l := 0x3C }, sp := 0x10AD })
      (fun t => (t.regs.h, t.regs.l, t.mem.read 0x10AD, t.mem.read 0x10AE)) = some (0x0D, 0xF0, 0x3C, 0x0B) := by
  decide

theorem test_v160_sphl :
    after ({ cpu 0x0100 [0xF9] with regs := { zeros with h := 0x50, l := 0x6C } }) (fun t => t.sp) = some 0x506C := by
  decide

theorem test_v162_out_10h :
    after ({ cpu 0x0100 [0xD3, 0x10] with regs := { zeros with a := 0x80 } })
      (fun t => t.outputs) = some [(0x10, 0x80)] := by
  decide

theorem test_v163_ei :
    after (cpu 0x0100 [0xFB]) (fun t => t.eiPending) = some true := by
  decide

theorem test_v164_nop_after_ei :
    after ({ cpu 0x0100 [0x00] with eiPending := true }) (fun t => (t.inte, t.eiPending)) = some (true, false) := by
  decide

theorem test_v165_di_after_ei :
    after ({ cpu 0x0100 [0xF3] with eiPending := true }) (fun t => t.eiPending) = some false := by
  decide

theorem test_v167_hlt_after_ei :
    after ({ cpu 0x0100 [0x76] with eiPending := true })
      (fun t => (t.inte, t.eiPending, t.halted)) = some (true, false, true) := by
  decide

theorem test_v171_interrupt_device_gives_rst_2 :
    after ({ cpu 0x1234 [0x00] with sp := 0x2000, inte := true, inputs := [{ int := true, intBytes := [0xD7] }] })
      (fun t => (t.pc, t.sp, t.mem.read 0x1FFE, t.mem.read 0x1FFF)) = some (0x0010, 0x1FFE, 0x34, 0x12) := by
  decide

theorem test_v172_interrupt_while_halted_rst_7 :
    after ({ cpu 0x0006 [] with
      sp := 0x2000, inte := true, halted := true, inputs := [{ int := true, intBytes := [0xFF] }] })
      (fun t => (t.pc, t.sp, t.mem.read 0x1FFE, t.mem.read 0x1FFF)) = some (0x0038, 0x1FFE, 0x06, 0x00) := by
  decide

theorem test_v175_int_during_the_ei_delay :
    after ({ cpu 0x0100 [0x3C] with eiPending := true, inputs := [{ int := true, intBytes := [0xFF] }] })
      (fun t => (t.pc, t.regs.a, t.inte, t.eiPending)) = some (0x0101, 0x01, true, false) := by
  decide

theorem test_v176_interrupt_device_gives_call_4000h :
    after ({ cpu 0x1234 [0x00] with
      sp := 0x2000, inte := true, inputs := [{ int := true, intBytes := [0xCD, 0x00, 0x40] }] })
      (fun t => (t.pc, t.sp, t.mem.read 0x1FFE, t.mem.read 0x1FFF)) = some (0x4000, 0x1FFE, 0x34, 0x12) := by
  decide

theorem test_v177_interrupt_device_gives_nop :
    after ({ cpu 0x1234 [0x3C] with inte := true, inputs := [{ int := true, intBytes := [0x00] }] })
      (fun t => (t.pc, t.inte)) = some (0x1234, false) := by
  decide

theorem test_v179_interrupt_device_gives_ei :
    after ({ cpu 0x1234 [0x00] with inte := true, inputs := [{ int := true, intBytes := [0xFB] }] })
      (fun t => (t.pc, t.inte, t.eiPending)) = some (0x1234, false, true) := by
  decide

theorem test_v180_reset :
    after ({ cpu 0x1234 [0x3C] with
      regs := { zeros with a := 0x55 }, sp := 0x2000, inte := true, halted := true, eiPending := true
      inputs := [{ reset := true }] })
      (fun t => (t.pc, t.inte, t.eiPending, t.halted)) = some (0x0000, false, false, false) := by
  decide

/-! ### One step: conditions without a vector, by hand from 44_branch R180, R184, R186 -/

theorem test_cz_not_taken :
    after ({ cpu 0x0100 [0xCC, 0x00, 0x30] with sp := 0x2400 }) (fun t => (t.pc, t.sp)) = some (0x0103, 0x2400) := by
  decide

theorem test_cnc_taken :
    after ({ cpu 0x0100 [0xD4, 0x00, 0x30] with sp := 0x2400 }) (fun t => (t.pc, t.sp)) = some (0x3000, 0x23FE) := by
  decide

theorem test_cpo_not_taken :
    after ({ cpu 0x0100 [0xE4, 0x00, 0x30] with sp := 0x2400, flags := { clear with p := true } })
      (fun t => (t.pc, t.sp)) = some (0x0103, 0x2400) := by
  decide

theorem test_cpe_taken :
    after ({ cpu 0x0100 [0xEC, 0x00, 0x30] with sp := 0x2400, flags := { clear with p := true } })
      (fun t => (t.pc, t.sp)) = some (0x3000, 0x23FE) := by
  decide

theorem test_cp_taken :
    after ({ cpu 0x0100 [0xF4, 0x00, 0x30] with sp := 0x2400 }) (fun t => (t.pc, t.sp)) = some (0x3000, 0x23FE) := by
  decide

theorem test_rz_taken :
    after ({ put (put (cpu 0x0100 [0xC8]) 0x23FE 0x03) 0x23FF 0x40 with sp := 0x23FE, flags := { clear with z := true } })
      (fun t => (t.pc, t.sp)) = some (0x4003, 0x2400) := by
  decide

theorem test_rnc_not_taken :
    after ({ cpu 0x0100 [0xD0] with sp := 0x23FE, flags := { clear with cy := true } })
      (fun t => (t.pc, t.sp)) = some (0x0101, 0x23FE) := by
  decide

theorem test_rc_taken :
    after ({ put (put (cpu 0x0100 [0xD8]) 0x23FE 0x03) 0x23FF 0x40 with sp := 0x23FE, flags := { clear with cy := true } })
      (fun t => (t.pc, t.sp)) = some (0x4003, 0x2400) := by
  decide

theorem test_rpo_taken :
    after ({ put (put (cpu 0x0100 [0xE0]) 0x23FE 0x03) 0x23FF 0x40 with sp := 0x23FE })
      (fun t => (t.pc, t.sp)) = some (0x4003, 0x2400) := by
  decide

theorem test_rp_not_taken :
    after ({ cpu 0x0100 [0xF0] with sp := 0x23FE, flags := { clear with s := true } })
      (fun t => (t.pc, t.sp)) = some (0x0101, 0x23FE) := by
  decide

theorem test_rm_taken :
    after ({ put (put (cpu 0x0100 [0xF8]) 0x23FE 0x03) 0x23FF 0x40 with sp := 0x23FE, flags := { clear with s := true } })
      (fun t => (t.pc, t.sp)) = some (0x4003, 0x2400) := by
  decide

/-- V161 without its byte, which the environment draws: A holds the draw, whatever it is (R206). -/
theorem test_v161_in_01h :
    after (cpu 0x0100 [0xDB, 0x01]) (fun t => (t.pc, t.regs.a)) = some (0x0102, Config.ioIn 0x01 0) := rfl

/-! ### Stops, and the other boundaries -/

theorem test_v181_undefined_opcode_08h : stopOf (cpu 0x0100 [0x08]) = some ("UndefinedOpcode", 0x0101) := by decide

theorem test_v183_undefined_opcode_ddh : stopOf (cpu 0x0100 [0xDD, 0x00, 0x30]) = some ("UndefinedOpcode", 0x0101) := by
  decide

theorem test_v178_interrupt_device_gives_jmp :
    stopOf { cpu 0x1234 [0x00] with inte := true, inputs := [{ int := true, intBytes := [0xC3] }] } =
      some ("BadInterruptInstruction", 0x1234) := by
  decide

theorem test_v184_interrupt_device_gives_undefined_d9h :
    stopOf { cpu 0x1234 [0x00] with inte := true, inputs := [{ int := true, intBytes := [0xD9] }] } =
      some ("UndefinedOpcode", 0x1234) := by
  decide

theorem test_v173_int_with_inte_0_while_halted :
    stopOf { cpu 0x0006 [] with halted := true, inputs := [{ int := true, intBytes := [0xFF] }] } =
      some ("halted", 0x0006) := by
  decide

/-- READY that never rises (50_machine_cycles R232, D10). -/
theorem test_ready_never_rises : stopOf { cpu 0x0100 [0x00] with inputs := [{ waits := none }] } = some ("wait", 0x0100) := by
  decide

/-- A hold at the boundary writes RAM and executes nothing; without a hold agent the line is ignored (R252 part 2, R4). -/
theorem test_hold_at_boundary :
    after { cpu 0x0100 [0x3C] with
      platform := { holdAgent := true }, inputs := [{ hold := true, dma := [.write 0x4000 0x55] }] }
      (fun t => (t.hlda, t.pc, t.regs.a, t.mem.read 0x4000)) = some (true, 0x0100, 0x00, 0x55) ∧
    after { cpu 0x0100 [0x3C] with inputs := [{ hold := true, dma := [.write 0x4000 0x55] }] }
      (fun t => (t.hlda, t.pc, t.regs.a, t.mem.read 0x4000)) = some (false, 0x0101, 0x01, 0x00) := by
  decide

/-- A hold after the second machine cycle of INR M: its write to the same byte is lost (60_exceptions R266, 20_memory R60). -/
theorem test_hold_inside_inr_m :
    after { put (cpu 0x0100 [0x34]) 0x2000 0x0F with
      regs := { zeros with h := 0x20 }, platform := { holdAgent := true }
      inputs := [{ cycleDma := [[], [.write 0x2000 0x77, .write 0x4000 0x55]] }] }
      (fun t => (t.mem.read 0x2000, t.mem.read 0x4000)) = some (0x10, 0x55) := by
  decide

/-- Three wait states lengthen a NOP from 4 to 7 states (50_machine_cycles R232, R236). -/
theorem test_wait_states : after { cpu 0x0100 [0x00] with inputs := [{ waits := some 3 }] } (fun t => t.clock) = some 7 := by
  decide

/-- The machine cycles and states of SHLD (source walk-through X3). -/
theorem test_shld_cycles :
    after (cpu 0x0100 [0x22, 0x0A, 0x01]) (fun t => (t.trace.reverse.map BusCycle.kind, t.clock)) =
      some ([.fetch, .memRead, .memRead, .memWrite, .memWrite], 16) := by
  decide

/-- The states of each machine cycle that the source writes out: XTHL 4 + 3 + 3 + 3 + 5, SHLD 4 + 3 + 3 + 3 + 3 (R221). -/
theorem test_cycle_states_written_out :
    cycleStates .xthl clear = [4, 3, 3, 3, 5] ∧ cycleStates (.shld 0x010A) clear = [4, 3, 3, 3, 3] := by
  decide

/-- M1 has five states for a call and a return, taken or not, and four for DAD, whose other two cycles make no bus access
(R222, R226, R236). -/
theorem test_cycle_states_of_control :
    cycleStates (.cz 0x3000) allSet = [5, 3, 3, 3, 3] ∧ cycleStates (.cz 0x3000) clear = [5, 3, 3] ∧
    cycleStates .rz clear = [5] ∧ cycleStates .ret clear = [4, 3, 3] ∧ cycleStates (.dad .bc) clear = [4, 3, 3] := by
  decide

/-- TW stands before T3 and repeats (R221). -/
theorem test_states_in_cycle :
    statesInCycle 3 2 = [.t1, .t2, .tw, .tw, .t3] ∧ statesInCycle 5 0 = [.t1, .t2, .t3, .t4, .t5] := by
  decide

/-! ### Hypotheses that can be met -/

/-- A state at which an ordinary instruction is fetched, its three bytes across the top of memory. -/
def atTop : State := cpu 0xFFFE [0xC3, 0x34, 0x12]

/-- A state with INTE set and a device that supplies `bytes`. -/
def asked (bytes : List Byte) : State :=
  { cpu 0x1234 [0x00] with inte := true, inputs := [{ int := true, intBytes := bytes }] }

theorem witness_DecodeEncodeRoundTrip : (Instr.rst 7).wf = true ∧ (Instr.undefined 0xFD).wf = true := by decide

theorem witness_DecodedBytesEncodeBack : decode [0x21, 0xFF, 0xFF, 0x00] = .ok (.lxi .hl 0xFFFF, [0x00]) := by decide

theorem witness_LengthFromFirstByte : undefinedOpcodes.contains 0x00 = false ∧ undefinedOpcodes.contains 0xFF = false := by
  decide

theorem witness_StepRunsDecodedInstruction :
    (Instr.jmp 0x1234).wf = true ∧ atTop.fetchesNext 0 ∧ atTop.undisturbed ∧ atTop.atPc (encode (.jmp 0x1234)) := by
  refine ⟨rfl, ⟨⟨rfl, rfl⟩, rfl, rfl, rfl⟩, .inl rfl, ?_⟩
  intro k h
  have hk : k < 3 := h
  match k, hk with
  | 0, _ => exact ⟨.inl rfl, rfl⟩
  | 1, _ => exact ⟨.inl rfl, rfl⟩
  | 2, _ => exact ⟨.inl rfl, rfl⟩

theorem witness_PlacedInstructionRunsNext :
    State.reset.mem.wf = true ∧ decodeTableWord 8 0x76 = some .hlt ∧ decodeTableWord 24 0x1234C3 = some (.jmp 0x1234) := by
  decide

theorem witness_ResetEventClears : State.env { cpu 0x1234 [] with inputs := [{ reset := true }] } |>.reset := rfl

theorem witness_HoldSuspendsCpu :
    ∃ s : State, s.env.reset = false ∧ s.env.hold = true ∧ s.platform.holdAgent = true ∧ s.mem.wf = true :=
  ⟨{ cpu 0x0100 [] with inputs := [{ hold := true }], platform := { holdAgent := true } }, rfl, rfl, rfl, rfl⟩

theorem witness_InterruptRestartEntry :
    (asked [0xFF]).acceptsNext 0 ∧ (asked [0xFF]).undisturbed ∧ (asked [0xFF]).env.intBytes = [0b11#2 ++ 7#3 ++ 0b111#3] :=
  ⟨⟨⟨rfl, rfl⟩, rfl, rfl, rfl⟩, .inl rfl, by decide⟩

theorem witness_InterruptCallEntry :
    (asked [0xCD, 0x00, 0x40]).acceptsNext 0 ∧ (asked [0xCD, 0x00, 0x40]).undisturbed ∧
    (asked [0xCD, 0x00, 0x40]).env.intBytes = [0xCD, 0x00, 0x40] :=
  ⟨⟨⟨rfl, rfl⟩, rfl, rfl, rfl⟩, .inl rfl, rfl⟩

theorem witness_InterruptRunsOneByteInstruction :
    (asked [0xFB]).acceptsNext 0 ∧ (asked [0xFB]).undisturbed ∧ (asked [0xFB]).env.intBytes = [0xFB] ∧ opLength 0xFB = 1 ∧
    0xFB ∉ undefinedOpcodes :=
  ⟨⟨⟨rfl, rfl⟩, rfl, rfl, rfl⟩, .inl rfl, rfl, by decide, by decide⟩

theorem witness_InterruptStopsOnOtherInstructions :
    ((asked [0xC3]).acceptsNext 0 ∧ (asked [0xC3]).undisturbed ∧ (asked [0xC3]).env.intBytes = [0xC3] ∧
      opLength 0xC3 ≠ 1 ∧ (0xC3 : Byte) ≠ 0xCD) ∧
    (asked [0xD9]).acceptsNext 0 ∧ (asked [0xD9]).undisturbed ∧ (asked [0xD9]).env.intBytes = [0xD9] ∧
      0xD9 ∈ undefinedOpcodes ∧ (asked [0xD9]).platform.undefOpcode = .fault :=
  ⟨⟨⟨⟨rfl, rfl⟩, rfl, rfl, rfl⟩, .inl rfl, rfl, by decide, by decide⟩,
    ⟨⟨rfl, rfl⟩, rfl, rfl, rfl⟩, .inl rfl, rfl, by decide, rfl⟩

theorem witness_RequestIgnoredWhileDisabled :
    ∃ s : State, s.inputs = [{ int := true, intBytes := [0xFF] }] ∧ s.inte = false :=
  ⟨{ cpu 0x0100 [] with inputs := [{ int := true, intBytes := [0xFF] }] }, rfl, rfl⟩

theorem witness_HaltStateIdles :
    (∃ s : State, s.unheld ∧ s.intLatch s.env = false ∧ s.halted = true ∧ s.inte = true) ∧
    (∃ s : State, s.unheld ∧ s.intLatch s.env = false ∧ s.halted = true ∧ s.inte = false ∧
      ∃ e ∈ s.inputs.tail, e.reset = true) ∧
    ∃ s : State, s.unheld ∧ s.intLatch s.env = false ∧ s.halted = true ∧ s.inte = false ∧
      ∀ e ∈ s.inputs.tail, e.reset = false ∧ (e.hold = false ∨ s.platform.holdAgent = false) :=
  ⟨⟨{ cpu 0x0006 [] with halted := true, inte := true }, ⟨rfl, rfl⟩, rfl, rfl, rfl⟩,
    ⟨{ cpu 0x0006 [] with halted := true, inputs := [{}, { reset := true }] }, ⟨rfl, rfl⟩, rfl, rfl, rfl,
      { reset := true }, .head _, rfl⟩,
    ⟨{ cpu 0x0006 [] with halted := true }, ⟨rfl, rfl⟩, rfl, rfl, rfl, fun _ h => nomatch h⟩⟩

theorem witness_HaltEndsByResetOrInterrupt :
    after { cpu 0x0006 [] with halted := true, inputs := [{ reset := true }] } (fun t => t.halted) = some false ∧
    after { asked [0x00] with halted := true } (fun t => t.halted) = some false := by
  decide

theorem witness_InteChangesOnlyAsNamed :
    after { cpu 0x0100 [0x00] with eiPending := true } (fun t => t.inte) = some true ∧
    after { cpu 0x0100 [0x00] with inte := true, inputs := [{ reset := true }] } (fun t => t.inte) = some false ∧
    after (asked [0x00]) (fun t => t.inte) = some false ∧
    after { cpu 0x0100 [0xF3] with inte := true } (fun t => t.inte) = some false := by
  decide

theorem witness_EiDelaysOneInstruction :
    ((cpu 0x0100 [0xFB]).fetchesNext 0 ∧ (cpu 0x0100 [0xFB]).nextInstr = .ei) ∧
    ((cpu 0x0100 [0xF3]).fetchesNext 0 ∧ (cpu 0x0100 [0xF3]).nextInstr = .di) ∧
    (cpu 0x0100 [0x00]).fetchesNext 0 ∧ (cpu 0x0100 [0x00]).nextInstr ≠ .ei ∧ (cpu 0x0100 [0x00]).nextInstr ≠ .di ∧
      after (cpu 0x0100 [0x00]) (fun _ => true) = some true :=
  ⟨⟨⟨⟨rfl, rfl⟩, rfl, rfl, rfl⟩, by decide⟩, ⟨⟨⟨rfl, rfl⟩, rfl, rfl, rfl⟩, by decide⟩, ⟨⟨rfl, rfl⟩, rfl, rfl, rfl⟩,
    by decide, by decide, by decide⟩

theorem witness_WaitStatesOnlyAddTime :
    ∃ s : State, s.inputs = [{ waits := some 3 }] ∧ after s (fun t => t.clock) = some 7 :=
  ⟨{ cpu 0x0100 [0x00] with inputs := [{ waits := some 3 }] }, rfl, by decide⟩

theorem witness_StepKeepsInvariant : (cpu 0x0100 [0x76]).Inv ∧ (cpu 0x0100 [0x76]).goesOn :=
  ⟨⟨by decide, nofun, nofun, rfl⟩, _, rfl⟩

theorem witness_StepKeepsNonRamBytes :
    ∃ s : State, memKind s.platform 0x0000 ≠ .ram ∧ s.byteAt 0x0000 = 0xC3 ∧ s.goesOn :=
  ⟨{ put (cpu 0x0100 [0x32, 0x00, 0x00]) 0x0000 0xC3 with
    platform := { regions := [{ first := 0x0000, last := 0x0000, kind := .rom }] } }, by decide, by decide, _, rfl⟩

theorem witness_HistoryOnlyGrows : atTop.goesOn := ⟨_, rfl⟩

/-- HLT is not XTHL; first bytes with a long and with a short M1. -/
theorem witness_FetchedInstructionTiming :
    (atTop.fetchesNext 0 ∧ atTop.goesOn) ∧ Instr.hlt ≠ .xthl ∧ 0x40 ∉ undefinedOpcodes ∧ 0x00 ∉ undefinedOpcodes :=
  ⟨⟨⟨⟨rfl, rfl⟩, rfl, rfl, rfl⟩, _, rfl⟩, by decide, by decide, by decide⟩

theorem witness_StopsAreNamed :
    (∃ r, step (cpu 0x0100 [0xFD]) = .fault r) ∧ (∃ r, step (asked [0x3A]) = .fault r) ∧
    (∃ r, step { cpu 0x0100 [] with halted := true } = .fault r) ∧
    ∃ r, step { cpu 0x0100 [] with inputs := [{ waits := none }] } = .fault r :=
  ⟨⟨_, rfl⟩, ⟨_, rfl⟩, ⟨_, rfl⟩, ⟨_, rfl⟩⟩

theorem witness_DefinedInstructionsRun :
    (cpu 0x0100 [0x00]).fetchesNext 0 ∧ ∀ op, (cpu 0x0100 [0x00]).nextInstr ≠ .undefined op := by
  have h : (cpu 0x0100 [0x00]).nextInstr = .nop := by decide
  exact ⟨⟨⟨rfl, rfl⟩, rfl, rfl, rfl⟩, fun op => by rw [h]; exact nofun⟩

theorem witness_RegistersWritten :
    (∃ t, exec (.dad .sp) State.reset = .next t) ∧ Reg.a ∉ (footprint (.dad .sp) State.reset).regs ∧
    (footprint (.dad .sp) State.reset).sp = false :=
  ⟨⟨_, rfl⟩, by decide, rfl⟩

theorem witness_FlagsWritten :
    (∃ t, exec (.inrR .b) State.reset = .next t) ∧ FlagName.cy ∉ (footprint (.inrR .b) State.reset).flags :=
  ⟨⟨_, rfl⟩, by decide⟩

/-- The stores of SHLD FFFFH are FFFFH and 0000H; the bytes beside them are kept. -/
theorem witness_MemoryWritten :
    State.reset.holds = [] ∧ (∃ t, exec (.shld 0xFFFF) State.reset = .next t) ∧
    0x0001 ∉ (footprint (.shld 0xFFFF) State.reset).stores ∧ 0xFFFE ∉ (footprint (.shld 0xFFFF) State.reset).stores :=
  ⟨rfl, ⟨_, rfl⟩, by decide, by decide⟩

theorem witness_ControlStateWritten :
    (∃ t, exec .stc State.reset = .next t) ∧ Instr.stc ≠ .di ∧ Instr.stc ≠ .ei ∧ Instr.stc ≠ .hlt ∧
    (footprint .stc State.reset).branches = false :=
  ⟨⟨_, rfl⟩, by decide, by decide, by decide, rfl⟩

/-- RAL reads CY only: the other four flags may differ. -/
theorem witness_FlagsRead :
    (∀ fl, fl ∈ (footprint .ral State.reset).reads →
      ({ allSet with cy := false } : Flags).get fl = State.reset.flags.get fl) ∧
    ∃ t, exec .ral State.reset = .next t :=
  ⟨by decide, _, rfl⟩

/-- Readable memory of both kinds. -/
theorem witness_LoadResult :
    State.reset.holds = [] ∧ State.reset.holdsByte 0xFFFF ∧
    State.holdsByte { State.reset with platform := { regions := [{ first := 0, last := 0x0FFF, kind := .rom }] } } 0x0FFF :=
  ⟨rfl, .inl rfl, .inr (by decide)⟩

/-- A store is seen in RAM, lost in ROM and changes no other byte. -/
theorem witness_StoreResult :
    State.reset.holds = [] ∧ State.reset.mem.wf = true ∧ State.reset.isRam 0xFFFF ∧
    ¬ State.isRam { State.reset with platform := { regions := [{ first := 0, last := 0, kind := .rom }] } } 0x0000 :=
  ⟨rfl, by decide, rfl, show ¬ MemKind.rom = MemKind.ram by decide⟩

theorem witness_HlDirectResult : State.reset.holds = [] ∧ (0xFFFF : Word) = joinBytes 0xFF 0xFF := by decide

theorem witness_AddResult : State.reset.holds = [] ∧ (0x0000 : Word) = joinBytes State.reset.regs.h State.reset.regs.l := by
  decide

theorem witness_SubtractResult : (cpu 0x0100 []).holds = [] ∧ (0x0000 : Word) = joinBytes zeros.h zeros.l := by decide

theorem witness_IncrementResult : State.reset.holds = [] ∧ State.reset.isRam (joinBytes 0x00 0x00) := ⟨rfl, rfl⟩

theorem witness_DecrementResult : State.reset.holds = [] ∧ State.reset.mem.wf = true := by decide

/-- 9AH: both steps of DAA add. -/
theorem witness_DecimalAdjustResult :
    (0x9A : Byte).toNat = 154 ∧ (6 : Nat) = (if 154 % 16 > 9 ∨ clear.ac = true then 6 else 0) ∧
    (96 : Nat) = (if (154 + 6) % 256 / 16 > 9 ∨ clear.cy = true ∨ 256 ≤ 154 + 6 then 96 else 0) := by
  decide

theorem witness_DecimalAddition : isBcd 0x99 ∧ isBcd 0x00 := ⟨⟨by decide, by decide⟩, by decide, by decide⟩

/-- Under the default platform AC is 0 after ANA and ANI. -/
theorem witness_BooleanResult :
    (∀ v : Byte, false =
      (decide (State.reset.platform.anaAC = .silicon) && (State.reset.regs.a.getLsbD 3 || v.getLsbD 3))) ∧
    State.reset.holds = [] :=
  ⟨fun _ => rfl, rfl⟩

theorem witness_CompareResult : State.reset.holds = [] ∧ (0x0000 : Word) = joinBytes zeros.h zeros.l := by decide

theorem witness_RotateResult : (255 : Nat) = ({ zeros with a := 0xFF } : Regs).a.toNat := by decide

theorem witness_JumpResult : (0x3E00 : Word) = joinBytes 0x3E 0x00 := by decide

theorem witness_CallResult : State.reset.holds = [] ∧ (0xFFFF : Word) = joinBytes 0xFF 0xFF := by decide

theorem witness_ReturnResult : State.reset.holds = [] ∧ (cpu 0x0100 [0xC9]).holds = [] := by decide

/-- The flag bytes of all flags 1 and all flags 0 (V153, V152). -/
theorem witness_PushResult :
    State.reset.holds = [] ∧
    (0xD7 : Byte).toNat = 128 * bitValue allSet.s + 64 * bitValue allSet.z + 16 * bitValue allSet.ac +
      4 * bitValue allSet.p + 2 + bitValue allSet.cy ∧
    (0x02 : Byte).toNat = 128 * bitValue clear.s + 64 * bitValue clear.z + 16 * bitValue clear.ac +
      4 * bitValue clear.p + 2 + bitValue clear.cy := by
  decide

theorem witness_PopResult : State.reset.holds = [] := rfl

theorem witness_ExchangeStackResult : State.reset.holds = [] ∧ State.reset.isRam 0x0000 ∧ State.reset.isRam 0x0001 :=
  ⟨rfl, rfl, rfl⟩

theorem witness_PortResult : State.reset.holds = [] := rfl

theorem witness_ControlResult : (cpu 0x0005 [0x76]).holds = [] := rfl

theorem witness_UndefinedOpcodeResult :
    0xFD ∈ undefinedOpcodes ∧ State.reset.platform.undefOpcode = .fault ∧
    (∃ s : State, s.platform.undefOpcode = .silicon ∧ s.holds = []) ∧
    (0x08 : Byte) ∈ [0x08, 0x10, 0x18, 0x20, 0x28, 0x30, 0x38] ∧ (0xFD : Byte) ∈ [0xDD, 0xED, 0xFD] :=
  ⟨by decide, rfl, ⟨{ State.reset with platform := { undefOpcode := .silicon } }, rfl, rfl⟩, by decide, by decide⟩

/-- A stack that wraps from 0001H to FFFFH. -/
theorem witness_StackRoundTrip :
    ∃ s : State, s.sp = 0x0001 ∧ s.holds = [] ∧ s.mem.wf = true ∧ s.isRam (s.sp - 1) ∧ s.isRam (s.sp - 2) :=
  ⟨{ State.reset with sp := 0x0001 }, rfl, rfl, rfl, rfl, rfl⟩

theorem witness_HoldInsideInstruction :
    ∃ s : State, s.holds = [[.write 0x0000 0x77]] ∧ s.mem.wf = true ∧ s.isRam 0x0000 ∧
      s.isRam (joinBytes s.regs.h s.regs.l) :=
  ⟨{ State.reset with holds := [[.write 0x0000 0x77]] }, rfl, rfl, rfl, rfl⟩

end Sys2Proof.Machine.Tests
end

/-! PROOF. Where a step can stop (spec 00_scope.md rule R8): the outcomes an instruction's meaning gives, then those of each
kind of boundary, then those of the step. -/

namespace Sys2Proof.Machine

/-! ### Instructions -/

/-- Only an undefined opcode ends in a fault, and only where the platform says so (30_encoding R78, D1). -/
theorem exec_fault {i : Instr} {s : State} {r : Fault} (h : exec i s = .fault r) :
    ∃ op, i = .undefined op ∧ s.platform.undefOpcode = .fault ∧ r = .undefinedOpcode op s := by
  cases i
  case undefined op =>
    cases hu : s.platform.undefOpcode with
    | fault =>
      rw [exec_undefined_fault hu] at h
      exact ⟨op, rfl, rfl, (Host.Outcome.fault.inj h).symm⟩
    | silicon =>
      rw [exec_undefined_silicon hu] at h
      cases h
  all_goals cases h

/-- Every instruction has a meaning. -/
theorem exec_ne_refused (i : Instr) (s : State) (r : Refusal) : exec i s ≠ .refused r := by
  cases i
  case undefined op =>
    cases hu : s.platform.undefOpcode with
    | fault => simp [exec_undefined_fault hu]
    | silicon => simp [exec_undefined_silicon hu]
  all_goals exact nofun

theorem finish_fault {i : Instr} {f : Flags} {e : Bool} {n : Nat} {o : Result} {r : Fault}
    (h : finish i f e n o = .fault r) : o = .fault r := by
  cases o with
  | fault q => exact congrArg _ (Host.Outcome.fault.inj h)
  | next _ => cases h
  | refused _ => cases h

theorem finish_refused {i : Instr} {f : Flags} {e : Bool} {n : Nat} {o : Result} {r : Refusal}
    (h : finish i f e n o = .refused r) : o = .refused r := by
  cases o with
  | refused q => exact congrArg _ (Host.Outcome.refused.inj h)
  | next _ => cases h
  | fault _ => cases h

theorem mem_undefinedOpcodes_of_wf {op : Byte} (h : (Instr.undefined op).wf = true) : op ∈ undefinedOpcodes :=
  List.contains_iff_mem.mp h

/-! ### The parts of a boundary -/

@[simp] theorem State.consumeEnv_platform (s : State) : s.consumeEnv.platform = s.platform := rfl

@[simp] theorem State.consumeEnv_inte (s : State) : s.consumeEnv.inte = s.inte := rfl

@[simp] theorem State.takeHolds_platform (s : State) (e : Env) : (s.takeHolds e).platform = s.platform := rfl

/-- What is fetched is well formed: the decoder calls no defined opcode undefined (30_encoding R76, R78). -/
theorem State.fetchInstr_instr_wf (s : State) : s.fetchInstr.1.wf = true := by
  unfold State.fetchInstr
  dsimp only
  split <;> exact decodeOp_wf _ _ _

/-- An interrupting device stops the machine only by the instruction it supplies (60_exceptions R259). -/
theorem State.takeInterrupt_error {s : State} {bytes : List Byte} {f : Fault} (h : s.takeInterrupt bytes = .error f) :
    ∃ b u, f = .badInterruptInstruction b u := by
  unfold State.takeInterrupt at h
  dsimp only at h
  generalize (if s.halted = true then CycleKind.intAckHalt else CycleKind.intAck) = k at h
  split at h
  · cases h
  · split at h
    · exact ⟨_, _, (Except.error.inj h).symm⟩
    · cases h

/-- An accepted interrupt stops for want of READY or by the instruction supplied (50_machine_cycles R232, 60_exceptions R259). -/
theorem State.interruptTurn_stop {s : State} {e : Env} {f : Fault} (h : s.interruptTurn e = .stop f) :
    (f = .stuckWait s ∧ e.waits = none) ∨ ∃ b u, f = .badInterruptInstruction b u := by
  unfold State.interruptTurn at h
  split at h
  · next hw => exact .inl ⟨(Turn.stop.inj h).symm, hw⟩
  · split at h
    · next ht =>
      cases h
      exact .inr (State.takeInterrupt_error ht)
    · cases h

/-- The instruction of an accepted interrupt is well formed, and the platform is the same. -/
theorem State.interruptTurn_run {s t : State} {e : Env} {i : Instr} {enable : Bool} {n : Nat}
    (h : s.interruptTurn e = .run i t enable n) : i.wf = true ∧ t.platform = s.platform := by
  unfold State.interruptTurn at h
  split at h
  · cases h
  · split at h
    · cases h
    · next ht =>
      cases h
      obtain ⟨-, -, -, -, -, -, -, -, -, -, hp, -, -, -, hw⟩ := State.takeInterrupt_ok ht
      exact ⟨hw, hp⟩

/-- The halt state is stuck only with INTE = 0 (70_reset R292). -/
theorem State.haltTurn_stop {s : State} {f : Fault} (h : s.haltTurn = .stop f) : f = .stuckHalted s ∧ s.inte = false := by
  unfold State.haltTurn at h
  split at h
  · cases h
  · next hn =>
    simp only [Bool.or_eq_true, not_or, Bool.not_eq_true] at hn
    exact ⟨(Turn.stop.inj h).symm, hn.1⟩

theorem State.haltTurn_ne_run (s t : State) (i : Instr) (enable : Bool) (n : Nat) : s.haltTurn ≠ .run i t enable n := by
  unfold State.haltTurn
  split <;> exact nofun

/-- A fetch stops only for want of READY (50_machine_cycles R232, D10). -/
theorem State.fetchTurn_stop {s : State} {e : Env} {f : Fault} (h : s.fetchTurn e = .stop f) :
    f = .stuckWait s ∧ e.waits = none := by
  unfold State.fetchTurn at h
  split at h
  · next hw => exact ⟨(Turn.stop.inj h).symm, hw⟩
  · cases h

/-- The fetched instruction is well formed, and the platform is the same. -/
theorem State.fetchTurn_run {s t : State} {e : Env} {i : Instr} {enable : Bool} {n : Nat}
    (h : s.fetchTurn e = .run i t enable n) : i.wf = true ∧ t.platform = s.platform := by
  unfold State.fetchTurn at h
  split at h
  · cases h
  · cases h
    exact ⟨State.fetchInstr_instr_wf _, by simp⟩

/-! ### The boundary and the step -/

/-- Part 3 of R252, whatever READY does. -/
theorem boundary_accepting {s : State} (h : s.unheld) (hi : s.env.int = true) (he : s.inte = true) :
    boundary s = (s.consumeEnv.setHlda false).interruptTurn s.env := by
  obtain ⟨hr, hg⟩ := h
  have hl : (s.consumeEnv.setHlda false).intLatch s.env = true := by simp [State.intLatch, hi, he]
  simp only [boundary, hr, State.consumeEnv_holdGranted, hg, hl, if_true, Bool.false_eq_true, if_false]

/-- Where a boundary itself stops the machine: three of the four outcomes of 00_scope R8. -/
theorem boundary_stop_cases {s : State} {f : Fault} (h : boundary s = .stop f) :
    (∃ b u, f = .badInterruptInstruction b u ∧ s.env.int = true ∧ s.inte = true) ∨
    (∃ u, f = .stuckHalted u ∧ s.halted = true ∧ s.inte = false) ∨
    (∃ u, f = .stuckWait u ∧ s.env.waits = none) := by
  rcases boundary_cases s with hr | ⟨hr, hg⟩ | ⟨hu, hi, he⟩ | ⟨hu, hl, hh⟩ | ⟨hu, hl, hh⟩
  · rw [boundary_reset hr] at h
    cases h
  · rw [boundary_hold hr hg] at h
    cases h
  · rw [boundary_accepting hu hi he] at h
    rcases State.interruptTurn_stop h with ⟨rfl, hw⟩ | ⟨b, u, rfl⟩
    · exact .inr (.inr ⟨_, rfl, hw⟩)
    · exact .inl ⟨b, u, rfl, hi, he⟩
  · rw [boundary_halt hu hl hh] at h
    obtain ⟨rfl, he⟩ := State.haltTurn_stop h
    exact .inr (.inl ⟨_, rfl, hh, he⟩)
  · rw [boundary_running hu hl hh] at h
    obtain ⟨rfl, hw⟩ := State.fetchTurn_stop h
    exact .inr (.inr ⟨_, rfl, hw⟩)

/-- An instruction a boundary hands on is well formed, and it is executed on the same platform. -/
theorem boundary_run {s t : State} {i : Instr} {enable : Bool} {n : Nat} (h : boundary s = .run i t enable n) :
    i.wf = true ∧ t.platform = s.platform := by
  rcases boundary_cases s with hr | ⟨hr, hg⟩ | ⟨hu, hi, he⟩ | ⟨hu, hl, hh⟩ | ⟨hu, hl, hh⟩
  · rw [boundary_reset hr] at h
    cases h
  · rw [boundary_hold hr hg] at h
    cases h
  · rw [boundary_accepting hu hi he] at h
    simpa using State.interruptTurn_run h
  · rw [boundary_halt hu hl hh] at h
    exact absurd h (State.haltTurn_ne_run _ _ _ _ _)
  · rw [boundary_running hu hl hh] at h
    simpa using State.fetchTurn_run h

theorem step_ne_refused (s : State) (r : Refusal) : step s ≠ .refused r := by
  intro h
  cases hb : boundary s with
  | done t =>
    rw [step_of_boundary_done hb] at h
    cases h
  | stop f =>
    rw [step_of_boundary_stop hb] at h
    cases h
  | run i t enable n =>
    rw [step_of_boundary_run hb] at h
    exact exec_ne_refused i t r (finish_refused h)

/-- A step ends in a fault because the boundary stops or because it executes an undefined opcode (00_scope R8). -/
theorem step_fault_cases {s : State} {r : Fault} (h : step s = .fault r) :
    (∃ op u, r = .undefinedOpcode op u ∧ op ∈ undefinedOpcodes ∧ s.platform.undefOpcode = .fault) ∨
    boundary s = .stop r := by
  cases hb : boundary s with
  | done t =>
    rw [step_of_boundary_done hb] at h
    cases h
  | stop f =>
    rw [step_of_boundary_stop hb] at h
    exact .inr (congrArg _ (Host.Outcome.fault.inj h))
  | run i t enable n =>
    rw [step_of_boundary_run hb] at h
    obtain ⟨op, rfl, hu, rfl⟩ := exec_fault (finish_fault h)
    obtain ⟨hw, hp⟩ := boundary_run hb
    exact .inl ⟨op, t, rfl, mem_undefinedOpcodes_of_wf hw, hp ▸ hu⟩

/-- Settles O26: no instruction is refused, an executed instruction faults only as an undefined opcode, and the boundary's own
stops are the other three outcomes. -/
theorem stopsAreNamed : Obligations.StopsAreNamed := by
  intro s
  refine ⟨step_ne_refused s, fun r h => ?_⟩
  rcases step_fault_cases h with hop | hb
  · exact .inl hop
  · exact .inr (boundary_stop_cases hb)

end Sys2Proof.Machine

/-! PROOF. The state an instruction and a step leave alone or may change (spec 10_state.md rules R15, R19, R21 to R27): the
control state, the invariant of the states between two steps, and INTE from one step to the next. -/

namespace Sys2Proof.Machine

/-! ### The shared operations keep the canonical form of memory -/

theorem State.readM_wf (s : State) (h : s.mem.wf = true) : s.readM.2.mem.wf = true := State.memRead_wf _ _ _ h

theorem State.writeM_wf (s : State) (v : Byte) (h : s.mem.wf = true) : (s.writeM v).mem.wf = true :=
  State.memWrite_wf _ _ _ _ h

theorem State.ioRead_wf (s : State) (port : Byte) (h : s.mem.wf = true) : (s.ioRead port).2.mem.wf = true :=
  State.record_wf _ _ _ _ h

theorem State.ioWrite_wf (s : State) (port v : Byte) (h : s.mem.wf = true) : (s.ioWrite port v).mem.wf = true :=
  State.record_wf _ _ _ _ h

theorem State.callTo_wf (s : State) (target : Word) (h : s.mem.wf = true) : (s.callTo target).mem.wf = true :=
  State.pushWord_wf s s.pc h

theorem State.returnFromStack_wf (s : State) (h : s.mem.wf = true) : s.returnFromStack.mem.wf = true :=
  State.popWord_wf s h

theorem State.callIf_wf (s : State) (cond : Cond) (target : Word) (h : s.mem.wf = true) :
    (s.callIf cond target).mem.wf = true := by
  unfold State.callIf
  split
  · exact s.callTo_wf target h
  · exact h

theorem State.returnIf_wf (s : State) (cond : Cond) (h : s.mem.wf = true) : (s.returnIf cond).mem.wf = true := by
  unfold State.returnIf
  split
  · exact s.returnFromStack_wf h
  · exact h

theorem State.undefinedDuplicate_wf (s : State) (op : Byte) (h : s.mem.wf = true) :
    (s.undefinedDuplicate op).mem.wf = true := by
  unfold State.undefinedDuplicate
  split
  · exact s.fetchWord_wf h
  · split
    · exact s.returnFromStack_wf h
    · split
      · exact State.callTo_wf _ _ (s.fetchWord_wf h)
      · exact h

/-- Every instruction keeps the canonical form of memory (20_memory R40). -/
theorem exec_keeps_canonical {i : Instr} {s t : State} (h : exec i s = .next t) (hw : s.mem.wf = true) :
    t.mem.wf = true := by
  cases i
  case undefined op =>
    obtain ⟨-, rfl⟩ := exec_undefined_next h
    exact s.undefinedDuplicate_wf op hw
  case xthl =>
    obtain rfl := Host.Outcome.next.inj ((exec_xthl s).symm.trans h)
    rw [State.setPair_mem]
    exact State.memWrite_wf _ _ _ _ (State.memWrite_wf _ _ _ _ (State.memRead_wf _ _ _ (State.memRead_wf _ _ _ hw)))
  all_goals
    simp at h
    subst h
    simp [State.memRead_wf, State.memWrite_wf, State.readM_wf, State.writeM_wf, State.record_wf, State.ioRead_wf,
      State.ioWrite_wf, State.pushWord_wf, State.popWord_wf, State.callTo_wf, State.returnFromStack_wf, State.callIf_wf,
      State.returnIf_wf, hw]

/-! ### Which instruction writes the control state -/

theorem stackFootprint_branches (s : State) (taken : Bool) (reads : List FlagName) :
    (stackFootprint s taken reads).branches = true := rfl

/-- An undefined opcode that does not branch runs as NOP (93_implementation_defined G2). -/
theorem State.undefinedDuplicate_of_no_branch {s : State} {op : Byte} (h : (undefinedFootprint s op).branches = false) :
    s.undefinedDuplicate op = s := by
  unfold undefinedFootprint at h
  unfold State.undefinedDuplicate
  split at h
  · cases h
  · next hjmp =>
    split at h
    · cases h
    · next hret =>
      split at h
      · cases h
      · next hcall => rw [if_neg hjmp, if_neg hret, if_neg hcall]

/-- Which instruction writes INTE, ei_pending, `halted` and PC: DI, EI and DI, HLT, the branch group (10_state R15, R21 to
R23). -/
theorem exec_keeps_control {i : Instr} {s t : State} (h : exec i s = .next t) :
    (i ≠ .di → t.inte = s.inte) ∧ (i ≠ .ei → i ≠ .di → t.eiPending = s.eiPending) ∧ (i ≠ .hlt → t.halted = s.halted) ∧
    ((footprint i s).branches = false → t.pc = s.pc) := by
  cases i
  case undefined op =>
    obtain ⟨-, rfl⟩ := exec_undefined_next h
    refine ⟨by simp, by simp, by simp, fun hb => ?_⟩
    rw [State.undefinedDuplicate_of_no_branch hb]
  all_goals
    simp at h
    subst h
    simp [footprint, stackFootprint_branches]

theorem exec_di_clears_inte {s t : State} (h : exec .di s = .next t) : t.inte = false := by
  obtain rfl := Host.Outcome.next.inj ((exec_di s).symm.trans h)
  rfl

/-- Settles O31: what any instruction keeps of the control state, and of what lies outside the CPU. -/
theorem controlStateWritten : Obligations.ControlStateWritten := by
  intro i s t h
  obtain ⟨hinte, hei, hhalted, hpc⟩ := exec_keeps_control h
  obtain ⟨hplatform, hinputs, hhlda, hclock⟩ := exec_keeps_environment h
  exact ⟨hinte, hei, hhalted, hpc, hhlda, hplatform, hinputs, hclock⟩

/-! ### The invariant of the states between two steps -/

theorem State.atFetch_wf {s : State} (h : s.mem.wf = true) : s.atFetch.fetchInstr.2.mem.wf = true :=
  State.fetchInstr_wf _ h

/-- Executed with no enable pending and not halted, an instruction does not leave the machine halted with an enable pending:
only HLT halts, and only EI makes an enable pending (10_state R22, R23). -/
theorem exec_halted_no_enable {i : Instr} {s t : State} (h : exec i s = .next t) (hh : s.halted = false)
    (he : s.eiPending = false) (ht : t.halted = true) : t.eiPending = false := by
  obtain ⟨-, hei, hhalted, -⟩ := exec_keeps_control h
  by_cases hi : i = .hlt
  · subst hi
    rw [hei (by decide) (by decide), he]
  · rw [hhalted hi, hh] at ht
    cases ht

/-- A completed instruction keeps the invariant, if it began with canonical memory, HLDA low, not halted and no enable
pending, as it does when it was fetched and when a device supplied it. -/
theorem complete_inv {i : Instr} {u v : State} (f : Flags) (e : Bool) (n : Nat) (h : exec i u = .next v)
    (hw : u.mem.wf = true) (hl : u.hlda = false) (hh : u.halted = false) (he : u.eiPending = false) :
    (complete i f e n v).Inv := by
  obtain ⟨-, -, hv, -⟩ := exec_keeps_environment h
  exact {
    memory := by simpa using exec_keeps_canonical h hw
    hold := by simp [hv, hl]
    halt := by simpa using exec_halted_no_enable h hh he
    between := by simp }

/-- Settles O22: by the five kinds of step; the instruction a device supplied and the fetched one by `complete_inv`. -/
theorem stepKeepsInvariant : Obligations.StepKeepsInvariant := by
  intro s t hs h
  obtain ⟨hm, ho, hh, hb⟩ := hs
  rcases step_next_cases h with ⟨-, rfl⟩ | ⟨-, hg, rfl⟩ | ⟨n, i, u, v, -, hu, hv, rfl⟩ | ⟨-, -, -, rfl⟩ | ⟨n, v, hf, hv, rfl⟩
  case inl => exact ⟨hm, nofun, nofun, hb⟩
  case inr.inl =>
    simp only [State.holdGranted, Bool.and_eq_true] at hg
    exact {
      memory := State.dmaAccesses_wf _ _ hm
      hold := fun _ => by simpa [State.holdTurn] using hg.2
      halt := by simpa [State.holdTurn, State.consumeEnv] using hh
      between := by simpa [State.holdTurn, State.consumeEnv] using hb }
  case inr.inr.inl =>
    obtain ⟨-, -, -, -, -, hhu, heu, hlu, -, -, -, hwu, -⟩ := State.takeInterrupt_ok hu
    exact complete_inv _ _ _ hv (hwu hm) hlu hhu heu
  case inr.inr.inr.inl => exact ⟨hm, nofun, hh, hb⟩
  case inr.inr.inr.inr =>
    obtain ⟨-, -, hn, -⟩ := hf
    exact complete_inv _ _ _ hv (State.atFetch_wf hm) (by rw [State.fetchInstr_hlda]; rfl)
      (by rw [State.fetchInstr_halted]; exact hn) (by rw [State.fetchInstr_eiPending]; rfl)

/-! ### INTE from one step to the next -/

theorem isDi_iff (i : Instr) : isDi i = true ↔ i = .di := by
  cases i <;> simp [isDi]

/-- Whatever the instruction, INTE does not rise while it is executed (10_state R21). -/
theorem exec_inte_stays_low {i : Instr} {s t : State} (h : exec i s = .next t) (hs : s.inte = false) : t.inte = false := by
  obtain ⟨hinte, -⟩ := exec_keeps_control h
  by_cases hd : i = .di
  · subst hd
    exact exec_di_clears_inte h
  · rw [hinte hd, hs]

theorem State.atFetch_inte (s : State) : s.atFetch.fetchInstr.2.inte = s.inte := by
  rw [State.fetchInstr_inte]
  rfl

/-- A fetched instruction raises INTE only by a pending enable, and lowers it only as DI (60_exceptions R252). -/
theorem fetched_inte_changes {s v : State} {f : Flags} {n : Nat}
    (h : exec s.nextInstr s.atFetch.fetchInstr.2 = .next v) :
    (s.inte = false → (complete s.nextInstr f s.eiPending n v).inte = true → s.eiPending = true ∧ s.nextInstr ≠ .di) ∧
    (s.inte = true → (complete s.nextInstr f s.eiPending n v).inte = false → s.nextInstr = .di) := by
  simp only [complete_inte]
  constructor
  · intro hs ht
    rw [exec_inte_stays_low h (s.atFetch_inte.trans hs)] at ht
    simpa [← isDi_iff] using ht
  · intro hs ht
    obtain ⟨hinte, -⟩ := exec_keeps_control h
    by_contra hd
    rw [hinte hd, s.atFetch_inte, hs, Bool.or_true] at ht
    cases ht

/-- Settles O18: no kind of step but an ordinary fetch raises INTE, and none but RESET, an interrupt and DI lowers it. -/
theorem inteChangesOnlyAsNamed : Obligations.InteChangesOnlyAsNamed := by
  intro s t h
  rcases step_next_cases h with ⟨hr, rfl⟩ | ⟨-, -, rfl⟩ | ⟨n, i, u, v, ha, -, -, -⟩ | ⟨-, -, -, rfl⟩ | ⟨n, v, hf, hv, rfl⟩
  case inl => exact ⟨fun _ ht => by simp at ht, fun _ _ => .inl hr⟩
  case inr.inl =>
    have hk : (s.consumeEnv.holdTurn s.env).inte = s.inte := by simp [State.holdTurn]
    rw [hk]
    exact ⟨fun hs ht => by simp [hs] at ht, fun hs ht => by simp [hs] at ht⟩
  case inr.inr.inl =>
    obtain ⟨hu, hi, he, -⟩ := ha
    exact ⟨fun hs => by simp [hs] at he, fun _ _ => .inr (.inl ⟨hu, hi⟩)⟩
  case inr.inr.inr.inl =>
    have hk : (s.consumeEnv.setHlda false).inte = s.inte := rfl
    rw [hk]
    exact ⟨fun hs ht => by simp [hs] at ht, fun hs ht => by simp [hs] at ht⟩
  case inr.inr.inr.inr =>
    obtain ⟨hu, hl, hh, -⟩ := hf
    obtain ⟨hrise, hfall⟩ := fetched_inte_changes hv
    constructor
    · intro hs ht
      obtain ⟨hp, hd⟩ := hrise hs ht
      exact ⟨hp, hu, hh, hd⟩
    · intro hs ht
      have hint : s.env.int = false := by simpa [State.intLatch, hs] using hl
      exact .inr (.inr ⟨hu, hint, hh, hfall hs ht⟩)

end Sys2Proof.Machine

/-! PROOF. The registers and the flags an instruction writes, and the flags it reads (spec 10_state.md rules R19, R27), and the
state after RESET (rule R26). -/

namespace Sys2Proof.Machine

/-! ### Registers and SP after each shared operation -/

@[simp] theorem State.addToA_regs (s : State) (v : Byte) (cin : Bool) :
    (s.addToA v cin).regs = s.regs.set .a (add8 (s.reg .a) v cin).r := rfl

@[simp] theorem State.subFromA_regs (s : State) (v : Byte) (bin : Bool) :
    (s.subFromA v bin).regs = s.regs.set .a (sub8 (s.reg .a) v bin).r := rfl

@[simp] theorem State.logicA_regs (s : State) (op : LogicOp) (v : Byte) :
    (s.logicA op v).regs = s.regs.set .a (logicResult op (s.reg .a) v) := rfl

@[simp] theorem State.rotateA_regs (s : State) (a : Byte) (cy : Bool) : (s.rotateA a cy).regs = s.regs.set .a a := rfl

/-- Writing a pair changes the two registers of the pair only (10_state R13, R14). -/
theorem State.setPair_get_other (s : State) {rp : Pair} (v : Word) {q : Reg} (h : q ∉ (pairFootprint rp).regs) :
    (s.setPair rp v).regs.get q = s.regs.get q := by
  cases rp <;> simp [pairFootprint] at h <;> simp [State.setPair, Regs.get_set, h]

/-- Writing a pair changes SP only where the pair is SP. -/
theorem State.setPair_sp_other (s : State) {rp : Pair} (v : Word) (h : (pairFootprint rp).sp = false) :
    (s.setPair rp v).sp = s.sp := by
  cases rp
  case sp => cases h
  all_goals rfl

theorem State.callIf_sp_not_taken {s : State} {cond : Cond} (target : Word) (h : condHolds s.flags cond = false) :
    (s.callIf cond target).sp = s.sp := by simp [State.callIf, h]

theorem State.returnIf_sp_not_taken {s : State} {cond : Cond} (h : condHolds s.flags cond = false) :
    (s.returnIf cond).sp = s.sp := by simp [State.returnIf, h]

theorem stackFootprint_sp (s : State) (taken : Bool) (reads : List FlagName) :
    (stackFootprint s taken reads).sp = taken := rfl

/-- An undefined opcode writes SP only as a duplicate of CALL or RET (93_implementation_defined G2). -/
theorem State.undefinedDuplicate_sp_other {s : State} {op : Byte} (h : (undefinedFootprint s op).sp = false) :
    (s.undefinedDuplicate op).sp = s.sp := by
  unfold undefinedFootprint at h
  unfold State.undefinedDuplicate
  split at h
  · next hjmp => simp [hjmp]
  · next hjmp =>
    split at h
    · cases h
    · next hret =>
      split at h
      · cases h
      · next hcall => rw [if_neg hjmp, if_neg hret, if_neg hcall]

/-- The registers an instruction writes are those of its footprint (10_state R27). -/
theorem exec_keeps_registers {i : Instr} {s t : State} (h : exec i s = .next t) {q : Reg}
    (hq : q ∉ (footprint i s).regs) : t.regs.get q = s.regs.get q := by
  cases i
  case undefined op =>
    obtain ⟨-, rfl⟩ := exec_undefined_next h
    simp
  case lxi rp _ | inx rp | dcx rp =>
    obtain rfl := Host.Outcome.next.inj h
    exact State.setPair_get_other s _ hq
  case pop rp =>
    obtain rfl := Host.Outcome.next.inj h
    rw [State.setPair_get_other _ _ hq, State.popWord_regs]
  all_goals
    simp at h
    subst h
    simp [footprint] at hq
    simp [Regs.get_set, State.setPair, hq]

/-- SP is written only where the footprint says so (10_state R27). -/
theorem exec_keeps_sp {i : Instr} {s t : State} (h : exec i s = .next t) (hs : (footprint i s).sp = false) :
    t.sp = s.sp := by
  cases i
  case undefined op =>
    obtain ⟨-, rfl⟩ := exec_undefined_next h
    exact State.undefinedDuplicate_sp_other hs
  case lxi rp _ | inx rp | dcx rp =>
    obtain rfl := Host.Outcome.next.inj h
    exact State.setPair_sp_other s _ hs
  case cnz | cz | cnc | cc | cpo | cpe | cp | cm =>
    obtain rfl := Host.Outcome.next.inj h
    exact State.callIf_sp_not_taken _ hs
  case rnz | rz | rnc | rc | rpo | rpe | rp | rm =>
    obtain rfl := Host.Outcome.next.inj h
    exact State.returnIf_sp_not_taken hs
  all_goals
    simp at h
    subst h
    simp [footprint, stackFootprint_sp, State.setPair] at hs ⊢

/-- Settles O28: the registers and SP each by its own lemma over the instructions. -/
theorem registersWritten : Obligations.RegistersWritten :=
  fun _ _ _ h => ⟨fun _ hq => exec_keeps_registers h hq, exec_keeps_sp h⟩

/-! ### The flags an instruction writes -/

/-- Two sets of flags that agree on every flag are equal. -/
theorem Flags.ext_get {f g : Flags} (h : ∀ fl, f.get fl = g.get fl) : f = g := by
  have hz := h .z
  have hs := h .s
  have hp := h .p
  have hcy := h .cy
  have hac := h .ac
  cases f
  cases g
  simp only [Flags.get] at *
  simp [*]

theorem mem_allFlags (fl : FlagName) : fl ∈ allFlags := by cases fl <;> decide

theorem Flags.get_setCy_other (f : Flags) (b : Bool) {fl : FlagName} (h : fl ≠ .cy) :
    ({ f with cy := b } : Flags).get fl = f.get fl := by
  cases fl
  case cy => exact absurd rfl h
  all_goals rfl

/-- CY is the one flag that INR and DCR do not write. -/
theorem eq_cy_of_not_mem {fl : FlagName} (h : fl ∉ [FlagName.z, .s, .p, .ac]) : fl = .cy := by
  cases fl
  case cy => rfl
  all_goals exact absurd (by decide) h

/-- The flags an instruction writes are those of its footprint (10_state R19). -/
theorem exec_keeps_flags {i : Instr} {s t : State} (h : exec i s = .next t) {fl : FlagName}
    (hf : fl ∉ (footprint i s).flags) : t.flags.get fl = s.flags.get fl := by
  cases i
  case undefined op =>
    obtain ⟨-, rfl⟩ := exec_undefined_next h
    simp
  case addR | addM | adi | adcR | adcM | aci | subR | subM | sui | sbbR | sbbM | sbi | daa
      | anaR | anaM | ani | xraR | xraM | xri | oraR | oraM | ori | cmpR | cmpM | cpi | popPsw =>
    exact absurd (mem_allFlags fl) hf
  case inrR | inrM | dcrR | dcrM =>
    obtain rfl := eq_cy_of_not_mem hf
    obtain rfl := Host.Outcome.next.inj h
    rfl
  case dad | rlc | rrc | ral | rar | cmc | stc =>
    obtain rfl := Host.Outcome.next.inj h
    exact Flags.get_setCy_other s.flags _ (List.ne_of_not_mem_cons hf)
  all_goals
    simp at h
    subst h
    simp

/-- Settles O29: any instruction, by `exec_keeps_flags`. -/
theorem flagsWritten : Obligations.FlagsWritten := fun _ _ _ _ h hf => exec_keeps_flags h hf

end Sys2Proof.Machine

/-! PROOF. The flags an instruction reads (spec 10_state.md rule R19): the same execution from a state with other flags. -/

namespace Sys2Proof.Machine

/-! ### The shared operations pass the flags on

`s.setFlags f` is `s` with other flags; each lemma moves `setFlags` from before an operation to after it. -/

@[simp] theorem State.setFlags_setFlags (s : State) (f g : Flags) : (s.setFlags f).setFlags g = s.setFlags g := rfl

@[simp] theorem State.setFlags_self (s : State) : s.setFlags s.flags = s := rfl

@[simp] theorem State.setReg_setFlags (s : State) (f : Flags) (r : Reg) (v : Byte) :
    (s.setFlags f).setReg r v = (s.setReg r v).setFlags f := rfl

@[simp] theorem State.setSp_setFlags (s : State) (f : Flags) (v : Word) :
    (s.setFlags f).setSp v = (s.setSp v).setFlags f := rfl

@[simp] theorem State.setPc_setFlags (s : State) (f : Flags) (v : Word) :
    (s.setFlags f).setPc v = (s.setPc v).setFlags f := rfl

@[simp] theorem State.setInte_setFlags (s : State) (f : Flags) (v : Bool) :
    (s.setFlags f).setInte v = (s.setInte v).setFlags f := rfl

@[simp] theorem State.setHalted_setFlags (s : State) (f : Flags) (v : Bool) :
    (s.setFlags f).setHalted v = (s.setHalted v).setFlags f := rfl

@[simp] theorem State.setEiPending_setFlags (s : State) (f : Flags) (v : Bool) :
    (s.setFlags f).setEiPending v = (s.setEiPending v).setFlags f := rfl

@[simp] theorem State.store_setFlags (s : State) (f : Flags) (addr : Word) (v : Byte) :
    (s.setFlags f).store addr v = (s.store addr v).setFlags f := rfl

@[simp] theorem State.pair_setFlags (s : State) (f : Flags) (rp : Pair) : (s.setFlags f).pair rp = s.pair rp := by
  cases rp <;> rfl

@[simp] theorem State.setPair_setFlags (s : State) (f : Flags) (rp : Pair) (v : Word) :
    (s.setFlags f).setPair rp v = (s.setPair rp v).setFlags f := by cases rp <;> rfl

theorem State.dmaAccess_setFlags (s : State) (f : Flags) (op : DmaOp) :
    (s.setFlags f).dmaAccess op = (s.dmaAccess op).setFlags f := by
  cases op with
  | read _ => rfl
  | write addr v => by_cases hr : s.kindAt addr = .ram <;> simp [State.dmaAccess, hr]

theorem State.dmaAccesses_setFlags (s : State) (f : Flags) (ops : List DmaOp) :
    (s.setFlags f).dmaAccesses ops = (s.dmaAccesses ops).setFlags f := by
  induction ops generalizing s with
  | nil => rfl
  | cons op ops ih => rw [State.dmaAccesses, State.dmaAccess_setFlags, ih, State.dmaAccesses]

/-- A hold is served whatever the flags are (60_exceptions R266). -/
theorem State.serveHold_setFlags (s : State) (f : Flags) : (s.setFlags f).serveHold = s.serveHold.setFlags f := by
  cases hh : s.holds with
  | nil => rw [State.serveHold_none hh, State.serveHold_none (s := s.setFlags f) hh]
  | cons ops rest =>
    simp only [State.serveHold, State.setFlags_holds, hh]
    exact State.dmaAccesses_setFlags (s.setHolds rest) f ops

@[simp] theorem State.record_setFlags (s : State) (f : Flags) (k : CycleKind) (addr : Word) (data : Option Byte) :
    (s.setFlags f).record k addr data = (s.record k addr data).setFlags f :=
  State.serveHold_setFlags { s with trace := { kind := k, addr := addr, data := data } :: s.trace } f

@[simp] theorem State.readValue_setFlags (s : State) (f : Flags) (addr : Word) :
    (s.setFlags f).readValue addr = s.readValue addr := rfl

theorem State.afterRead_setFlags (s : State) (f : Flags) (addr : Word) :
    (s.setFlags f).afterRead addr = (s.afterRead addr).setFlags f := by
  unfold State.afterRead
  rw [State.setFlags_kindAt]
  split <;> rfl

@[simp] theorem State.memRead_setFlags (s : State) (f : Flags) (k : CycleKind) (addr : Word) :
    (s.setFlags f).memRead k addr = ((s.memRead k addr).1, (s.memRead k addr).2.setFlags f) := by
  simp only [State.memRead, State.readValue_setFlags, State.afterRead_setFlags, State.record_setFlags]

@[simp] theorem State.memWrite_setFlags (s : State) (f : Flags) (k : CycleKind) (addr : Word) (v : Byte) :
    (s.setFlags f).memWrite k addr v = (s.memWrite k addr v).setFlags f := by
  unfold State.memWrite
  rw [State.setFlags_kindAt]
  split
  · exact State.record_setFlags (s.store addr v) f k addr (some v)
  all_goals exact State.record_setFlags s f k addr (some v)

@[simp] theorem State.ioRead_setFlags (s : State) (f : Flags) (port : Byte) :
    (s.setFlags f).ioRead port = ((s.ioRead port).1, (s.ioRead port).2.setFlags f) :=
  congrArg (Prod.mk _) (State.record_setFlags s.countDraw f _ _ _)

@[simp] theorem State.ioWrite_setFlags (s : State) (f : Flags) (port v : Byte) :
    (s.setFlags f).ioWrite port v = (s.ioWrite port v).setFlags f := State.record_setFlags s f _ _ _

@[simp] theorem State.readM_setFlags (s : State) (f : Flags) :
    (s.setFlags f).readM = (s.readM.1, s.readM.2.setFlags f) := State.memRead_setFlags s f _ _

@[simp] theorem State.writeM_setFlags (s : State) (f : Flags) (v : Byte) :
    (s.setFlags f).writeM v = (s.writeM v).setFlags f := State.memWrite_setFlags s f _ _ v

@[simp] theorem State.fetchWord_setFlags (s : State) (f : Flags) :
    (s.setFlags f).fetchWord = (s.fetchWord.1, s.fetchWord.2.setFlags f) := by
  simp [State.fetchWord, State.fetchByte]

@[simp] theorem State.pushWord_setFlags (s : State) (f : Flags) (w : Word) :
    (s.setFlags f).pushWord w = (s.pushWord w).setFlags f := by
  simp [State.pushWord]

@[simp] theorem State.popWord_setFlags (s : State) (f : Flags) :
    (s.setFlags f).popWord = (s.popWord.1, s.popWord.2.setFlags f) := by
  simp [State.popWord]

@[simp] theorem State.callTo_setFlags (s : State) (f : Flags) (target : Word) :
    (s.setFlags f).callTo target = (s.callTo target).setFlags f := by
  simp [State.callTo]

@[simp] theorem State.returnFromStack_setFlags (s : State) (f : Flags) :
    (s.setFlags f).returnFromStack = s.returnFromStack.setFlags f := by
  simp [State.returnFromStack]

@[simp] theorem State.undefinedDuplicate_setFlags (s : State) (f : Flags) (op : Byte) :
    (s.setFlags f).undefinedDuplicate op = (s.undefinedDuplicate op).setFlags f := by
  unfold State.undefinedDuplicate
  split
  · simp
  · split
    · simp
    · split
      · simp
      · rfl

/-! ### Conditions -/

/-- A condition depends on the flag it examines only (44_branch R180). -/
theorem condHolds_congr {f g : Flags} {cond : Cond} (h : f.get (condFlag cond) = g.get (condFlag cond)) :
    condHolds f cond = condHolds g cond := by
  cases cond
  case z | c | pe | m => exact h
  all_goals exact congrArg Bool.not h

theorem State.jumpIf_setFlags {s : State} {f : Flags} {cond : Cond} (target : Word)
    (h : condHolds f cond = condHolds s.flags cond) :
    (s.setFlags f).jumpIf cond target = (s.jumpIf cond target).setFlags f := by
  unfold State.jumpIf
  rw [State.setFlags_flags, h]
  split <;> rfl

theorem State.callIf_setFlags {s : State} {f : Flags} {cond : Cond} (target : Word)
    (h : condHolds f cond = condHolds s.flags cond) :
    (s.setFlags f).callIf cond target = (s.callIf cond target).setFlags f := by
  unfold State.callIf
  rw [State.setFlags_flags, h]
  split <;> simp

theorem State.returnIf_setFlags {s : State} {f : Flags} {cond : Cond} (h : condHolds f cond = condHolds s.flags cond) :
    (s.setFlags f).returnIf cond = (s.returnIf cond).setFlags f := by
  unfold State.returnIf
  rw [State.setFlags_flags, h]
  split <;> simp

/-! ### Operations that write all five flags -/

@[simp] theorem State.addToA_setFlags (s : State) (f : Flags) (v : Byte) (cin : Bool) :
    (s.setFlags f).addToA v cin = s.addToA v cin := rfl

@[simp] theorem State.subFromA_setFlags (s : State) (f : Flags) (v : Byte) (bin : Bool) :
    (s.setFlags f).subFromA v bin = s.subFromA v bin := rfl

@[simp] theorem State.compareA_setFlags (s : State) (f : Flags) (v : Byte) (bin : Bool) :
    (s.setFlags f).compareA v bin = s.compareA v bin := rfl

@[simp] theorem State.logicA_setFlags (s : State) (f : Flags) (op : LogicOp) (v : Byte) :
    (s.setFlags f).logicA op v = s.logicA op v := rfl

/-- DAA depends on CY and AC only (42_arithmetic R141). -/
theorem decimalAdjust_congr {f g : Flags} (a : Byte) (hcy : f.cy = g.cy) (hac : f.ac = g.ac) :
    decimalAdjust a f = decimalAdjust a g := by
  cases f
  cases g
  cases hcy
  cases hac
  rfl

/-! ### The flags an instruction reads -/

/-- `i`, executed in `s` with the flags `f` instead, comes to `t` but for the flags, and to the same flags where `i` writes
them. -/
def FlagsPassOn (i : Instr) (s t : State) (f : Flags) : Prop :=
  ∃ g, exec i (s.setFlags f) = .next (t.setFlags g) ∧ ∀ fl, fl ∈ (footprint i s).flags → g.get fl = t.flags.get fl

/-- An instruction that comes to the same state has passed on nothing of the flags before it. -/
theorem FlagsPassOn.of_same {i : Instr} {s t : State} {f : Flags} (h : exec i (s.setFlags f) = .next t) :
    FlagsPassOn i s t f := ⟨t.flags, h, fun _ _ => rfl⟩

/-- An instruction that writes no flag keeps the flags before it. -/
theorem FlagsPassOn.of_kept {i : Instr} {s t : State} {f : Flags} (h : exec i (s.setFlags f) = .next (t.setFlags f))
    (hn : (footprint i s).flags = []) : FlagsPassOn i s t f :=
  ⟨f, h, fun fl hf => by rw [hn] at hf; cases hf⟩

/-- An instruction that writes CY alone keeps the other four flags. -/
theorem FlagsPassOn.of_cy {i : Instr} {s t : State} {f : Flags}
    (h : exec i (s.setFlags f) = .next (t.setFlags { f with cy := t.flags.cy })) (hn : (footprint i s).flags = [.cy]) :
    FlagsPassOn i s t f :=
  ⟨{ f with cy := t.flags.cy }, h, fun fl hf => by
    rw [hn, List.mem_singleton] at hf
    subst hf
    rfl⟩

/-- An instruction that writes every flag but CY keeps CY. -/
theorem FlagsPassOn.of_not_cy {i : Instr} {s t : State} {f : Flags}
    (h : exec i (s.setFlags f) = .next (t.setFlags { t.flags with cy := f.cy }))
    (hn : (footprint i s).flags = [.z, .s, .p, .ac]) : FlagsPassOn i s t f :=
  ⟨{ t.flags with cy := f.cy }, h, fun fl hf => by
    rw [hn] at hf
    cases fl
    case cy => exact absurd hf (by decide)
    all_goals rfl⟩

theorem undefinedFootprint_flags (s : State) (op : Byte) : (undefinedFootprint s op).flags = [] := by
  unfold undefinedFootprint
  split
  · rfl
  · split
    · rfl
    · split <;> rfl

/-- The flags before an instruction reach nothing but the flags it does not write, where those it reads are the same
(10_state R19). -/
theorem exec_passes_flags_on {i : Instr} {s t : State} {f : Flags} (h : exec i s = .next t)
    (hr : ∀ fl, fl ∈ (footprint i s).reads → f.get fl = s.flags.get fl) : FlagsPassOn i s t f := by
  cases i
  case undefined op =>
    obtain ⟨hu, rfl⟩ := exec_undefined_next h
    refine .of_kept ?_ ?_
    · rw [exec_undefined_silicon (s := s.setFlags f) hu, State.undefinedDuplicate_setFlags]
    · exact undefinedFootprint_flags s op
  case addR | addM | adi | subR | subM | sui | anaR | anaM | ani | xraR | xraM | xri | oraR | oraM | ori
      | cmpR | cmpM | cpi | popPsw =>
    obtain rfl := Host.Outcome.next.inj h
    exact .of_same (by simp)
  case adcR | adcM | aci | sbbR | sbbM | sbi =>
    obtain rfl := Host.Outcome.next.inj h
    have hcy : f.cy = s.flags.cy := hr .cy (List.mem_singleton_self _)
    exact .of_same (by simp [hcy])
  case daa =>
    obtain rfl := Host.Outcome.next.inj h
    have hcy : f.cy = s.flags.cy := hr .cy List.mem_cons_self
    have hac : f.ac = s.flags.ac := hr .ac (List.mem_cons_of_mem _ List.mem_cons_self)
    exact .of_same (by simp [decimalAdjust_congr _ hcy hac])
  case inrR | inrM | dcrR | dcrM =>
    obtain rfl := Host.Outcome.next.inj h
    exact .of_not_cy (by simp; rfl) rfl
  case dad | rlc | rrc | stc =>
    obtain rfl := Host.Outcome.next.inj h
    exact .of_cy rfl rfl
  case ral | rar | cmc =>
    obtain rfl := Host.Outcome.next.inj h
    have hcy : f.cy = s.flags.cy := hr .cy (List.mem_singleton_self _)
    exact .of_cy (by simp [hcy, State.rotateA]) rfl
  case jnz | jz | jnc | jc | jpo | jpe | jp | jm =>
    obtain rfl := Host.Outcome.next.inj h
    exact .of_kept (congrArg _ (State.jumpIf_setFlags _ (condHolds_congr (hr _ (List.mem_singleton_self _))))) rfl
  case cnz | cz | cnc | cc | cpo | cpe | cp | cm =>
    obtain rfl := Host.Outcome.next.inj h
    exact .of_kept (congrArg _ (State.callIf_setFlags _ (condHolds_congr (hr _ (List.mem_singleton_self _))))) rfl
  case rnz | rz | rnc | rc | rpo | rpe | rp | rm =>
    obtain rfl := Host.Outcome.next.inj h
    exact .of_kept (congrArg _ (State.returnIf_setFlags (condHolds_congr (hr _ (List.mem_singleton_self _))))) rfl
  case pushPsw =>
    obtain rfl : f = s.flags := Flags.ext_get fun fl => hr fl (mem_allFlags fl)
    exact .of_same h
  case lxi rp _ | inx rp | dcx rp =>
    obtain rfl := Host.Outcome.next.inj h
    exact .of_kept (by simp) (by cases rp <;> rfl)
  case pop rp =>
    obtain rfl := Host.Outcome.next.inj h
    exact .of_kept (by simp) (by cases rp <;> rfl)
  all_goals
    obtain rfl := Host.Outcome.next.inj h
    exact .of_kept (by simp) rfl

/-- Settles O32: the flags passed on are the flags of the second run's state. -/
theorem flagsRead : Obligations.FlagsRead := by
  intro i s t f hr h
  obtain ⟨g, hg, hw⟩ := exec_passes_flags_on h hr
  exact ⟨t.setFlags g, hg, rfl, hw⟩

/-! ### The state after RESET -/

/-- Settles O9: the fields of `State.reset`; with no region listed every address is RAM. -/
theorem resetState : Obligations.ResetState := ⟨rfl, rfl, rfl, rfl, rfl, fun _ => rfl, rfl⟩

/-- Settles O21: memory lists nothing, the two flip-flops are low and no hold is due. -/
theorem invariantAtReset : Obligations.InvariantAtReset where
  memory := Memory.wf_nil
  hold := nofun
  halt := nofun
  between := rfl

end Sys2Proof.Machine

/-! PROOF. Which bytes of memory an instruction and a step leave alone (spec 20_memory.md rules R45, R54, R55): the byte at an
address that is not RAM, and, with no hold due, every byte the instruction does not store to. Both are one predicate, which
each access keeps. -/

namespace Sys2Proof.Machine

/-! ### A byte that the instruction in progress cannot change -/

/-- The byte at `a` is `v`, and nothing in an instruction that stores to `stores` can change it: where RAM answers, no hold is
due and `a` is not stored to. -/
structure State.Spares (s : State) (stores : List Word) (a : Word) (v : Byte) : Prop where
  byte : s.byteAt a = v
  safe : s.kindAt a = .ram → s.holds = [] ∧ a ∉ stores

namespace State.Spares

theorem of_not_ram {s : State} {a : Word} (stores : List Word) (h : s.kindAt a ≠ .ram) : s.Spares stores a (s.byteAt a) :=
  ⟨rfl, fun hr => absurd hr h⟩

theorem of_not_stored {s : State} {stores : List Word} {a : Word} (h : s.holds = []) (ha : a ∉ stores) :
    s.Spares stores a (s.byteAt a) :=
  ⟨rfl, fun _ => ⟨h, ha⟩⟩

variable {s t : State} {stores : List Word} {a : Word} {v : Byte}

/-- The other fields of the state do not matter. -/
theorem of_same (h : s.Spares stores a v) (hs : t.mem = s.mem ∧ t.platform = s.platform ∧ t.holds = s.holds) :
    t.Spares stores a v := by
  obtain ⟨hm, hp, hh⟩ := hs
  exact ⟨by rw [← h.byte, State.byteAt, hm, State.byteAt], by rw [State.kindAt, hp, hh]; exact h.safe⟩

theorem setFlags (h : s.Spares stores a v) (f : Flags) : (s.setFlags f).Spares stores a v := h.of_same (by simp)

/-! ### The accesses keep such a byte -/

/-- A machine cycle: only a hold after it could change memory. -/
theorem record (h : s.Spares stores a v) (k : CycleKind) (x : Word) (d : Option Byte) :
    (s.record k x d).Spares stores a v := by
  by_cases hr : s.kindAt a = .ram
  · obtain ⟨hq, -⟩ := h.safe hr
    exact h.of_same ⟨State.record_mem_quiet hq k x d, by simp, by rw [State.record_holds_quiet hq, hq]⟩
  · exact ⟨(State.record_byteAt s k x d hr).trans h.byte, fun hr' => absurd (by simpa using hr') hr⟩

theorem memRead (h : s.Spares stores a v) (k : CycleKind) (x : Word) : (s.memRead k x).2.Spares stores a v :=
  (h.of_same (by simp) : (s.afterRead x).Spares stores a v).record k x _

/-- A write to one of the instruction's addresses: RAM there is another byte, and what is not RAM takes none. -/
theorem memWrite (h : s.Spares stores a v) (k : CycleKind) {x : Word} (hx : x ∈ stores) (w : Byte) :
    (s.memWrite k x w).Spares stores a v := by
  by_cases hr : s.kindAt a = .ram
  · obtain ⟨hq, ha⟩ := h.safe hr
    have hax : a ≠ x := (ne_of_mem_of_not_mem hx ha).symm
    exact ⟨(State.memWrite_other_quiet hq k x w hax).trans h.byte, fun _ => ⟨State.memWrite_holds_quiet hq k x w, ha⟩⟩
  · exact ⟨(State.memWrite_byteAt s k x w hr).trans h.byte, fun hr' => absurd (by simpa using hr') hr⟩

theorem readM (h : s.Spares stores a v) : s.readM.2.Spares stores a v := h.memRead .memRead s.hl

theorem writeM (h : s.Spares stores a v) (hx : s.hl ∈ stores) (w : Byte) : (s.writeM w).Spares stores a v :=
  h.memWrite .memWrite hx w

theorem ioRead (h : s.Spares stores a v) (port : Byte) : (s.ioRead port).2.Spares stores a v :=
  (h.of_same (by simp) : s.countDraw.Spares stores a v).record _ _ _

theorem ioWrite (h : s.Spares stores a v) (port w : Byte) : (s.ioWrite port w).Spares stores a v := h.record _ _ _

theorem fetchByte (h : s.Spares stores a v) (k : CycleKind) : (s.fetchByte k).2.Spares stores a v :=
  (h.memRead k s.pc).of_same (by simp [State.fetchByte])

theorem fetchWord (h : s.Spares stores a v) : s.fetchWord.2.Spares stores a v :=
  (h.fetchByte .memRead).fetchByte .memRead

theorem popWord (h : s.Spares stores a v) : s.popWord.2.Spares stores a v :=
  ((h.memRead .stackRead s.sp).memRead .stackRead (s.sp + 1)).of_same (by simp [State.popWord])

theorem pushWord (h : s.Spares stores a v) (h1 : s.sp - 1 ∈ stores) (h2 : s.sp - 2 ∈ stores) (w : Word) :
    (s.pushWord w).Spares stores a v :=
  ((h.memWrite .stackWrite h1 (hi w)).memWrite .stackWrite h2 (lo w)).of_same (by simp [State.pushWord])

theorem callTo (h : s.Spares stores a v) (h1 : s.sp - 1 ∈ stores) (h2 : s.sp - 2 ∈ stores) (target : Word) :
    (s.callTo target).Spares stores a v :=
  (h.pushWord h1 h2 s.pc).of_same (by simp [State.callTo])

theorem returnFromStack (h : s.Spares stores a v) : s.returnFromStack.Spares stores a v :=
  h.popWord.of_same (by simp [State.returnFromStack])

/-- A conditional call stores only where it is taken. -/
theorem callIf {cond : Cond} {reads : List FlagName}
    (h : s.Spares (stackFootprint s (condHolds s.flags cond) reads).stores a v) (target : Word) :
    (s.callIf cond target).Spares (stackFootprint s (condHolds s.flags cond) reads).stores a v := by
  unfold State.callIf
  split
  · next hc => exact h.callTo (by simp [stackFootprint, hc]) (by simp [stackFootprint, hc]) target
  · exact h

theorem returnIf (h : s.Spares stores a v) (cond : Cond) : (s.returnIf cond).Spares stores a v := by
  unfold State.returnIf
  split
  · exact h.returnFromStack
  · exact h

/-- Of the reported duplicates only those of CALL store (93_implementation_defined G2). -/
theorem undefinedDuplicate {op : Byte} (h : s.Spares (undefinedFootprint s op).stores a v) :
    (s.undefinedDuplicate op).Spares (undefinedFootprint s op).stores a v := by
  unfold State.undefinedDuplicate
  split
  · exact h.fetchWord.of_same (by simp)
  · next hjmp =>
    split
    · exact h.returnFromStack
    · next hret =>
      split
      · next hcall =>
        have hf : undefinedFootprint s op = stackFootprint s true [] := by
          rw [undefinedFootprint, if_neg hjmp, if_neg hret, if_pos hcall]
        rw [hf] at h ⊢
        exact h.fetchWord.callTo (by simp [stackFootprint]) (by simp [stackFootprint]) _
      · exact h

end State.Spares

/-! ### Any instruction -/

/-- Every instruction keeps a byte that is not RAM, or that no hold threatens and the instruction does not store to. -/
theorem exec_spares {i : Instr} {s t : State} {a : Word} {v : Byte} (h : s.Spares (footprint i s).stores a v)
    (he : exec i s = .next t) : t.Spares (footprint i s).stores a v := by
  cases i
  case undefined op =>
    obtain ⟨-, rfl⟩ := exec_undefined_next he
    exact h.undefinedDuplicate
  all_goals
    simp at he
    subst he
  case movMR | mviM => exact h.writeM (by simp [footprint]) _
  case sta | stax => exact h.memWrite _ (by simp [footprint]) _
  case shld => exact (h.memWrite _ (by simp [footprint]) _).memWrite _ (by simp [footprint]) _
  case inrM | dcrM => exact (h.readM.writeM (by simp [footprint, State.readM]) _).setFlags _
  case xthl =>
    have hreads := (h.memRead .stackRead s.sp).memRead .stackRead (s.sp + 1)
    have hhigh := hreads.memWrite .stackWrite (x := s.sp + 1) (by simp [footprint]) (s.reg .h)
    have hlow := hhigh.memWrite .stackWrite (x := s.sp) (by simp [footprint]) (s.reg .l)
    exact hlow.of_same (by simp)
  case push | pushPsw => exact h.pushWord (by simp [footprint]) (by simp [footprint]) _
  case call | rst => exact h.callTo (by simp [footprint, stackFootprint]) (by simp [footprint, stackFootprint]) _
  case cnz | cz | cnc | cc | cpo | cpe | cp | cm => exact h.callIf _
  case ret => exact h.returnFromStack
  case rnz | rz | rnc | rc | rpo | rpe | rp | rm => exact h.returnIf _
  case pop | popPsw => exact h.popWord.of_same (by simp)
  case movRM | addM | adcM | subM | sbbM | anaM | xraM | oraM | cmpM => exact h.readM.of_same (by simp)
  case lda addr => exact (h.memRead .memRead addr).of_same (by simp)
  case ldax rp => exact (h.memRead .memRead (s.pair (indexPair rp))).of_same (by simp)
  case lhld addr => exact ((h.memRead .memRead addr).memRead .memRead (addr + 1)).of_same (by simp)
  case inPort port => exact (h.ioRead port).of_same (by simp)
  case outPort => exact h.ioWrite _ _
  case hlt => exact (h.record .haltAck s.pc none).of_same (by simp)
  all_goals exact h.of_same (by simp)

/-- Settles O30: with no hold due, an address that is not stored to is spared. -/
theorem memoryWritten : Obligations.MemoryWritten :=
  fun _ _ _ _ hs he ha => (exec_spares (.of_not_stored hs ha) he).byte

/-! ### The step -/

/-- A completed instruction, with the holds inside it, keeps the platform and a byte that is not RAM. -/
theorem complete_keeps_nonRam {i : Instr} {s t : State} {a : Word} (f : Flags) (enable : Bool) (n : Nat)
    (he : exec i s = .next t) (ha : s.kindAt a ≠ .ram) :
    (complete i f enable n t).platform = s.platform ∧ (complete i f enable n t).byteAt a = s.byteAt a := by
  obtain ⟨hp, -⟩ := exec_keeps_environment he
  have hb := (exec_spares (.of_not_ram _ ha) he).byte
  exact ⟨by rw [complete_platform, hp], by rw [State.byteAt, complete_mem]; exact hb⟩

/-- Every kind of step keeps the platform and a byte that is not RAM (20_memory R45). -/
theorem step_keeps_nonRam {s t : State} {a : Word} (h : step s = .next t) (ha : s.kindAt a ≠ .ram) :
    t.platform = s.platform ∧ t.byteAt a = s.byteAt a := by
  rcases step_next_cases h with ⟨-, rfl⟩ | ⟨-, -, rfl⟩ | ⟨n, i, u, v, -, hu, hv, rfl⟩ | ⟨-, -, -, rfl⟩ | ⟨n, v, -, hv, rfl⟩
  case inl => exact ⟨rfl, rfl⟩
  case inr.inl => exact ⟨by simp [State.holdTurn], State.dmaAccesses_byteAt _ _ ha⟩
  case inr.inr.inl =>
    obtain ⟨-, -, -, -, -, -, -, -, -, -, hpu, -, hbu, -⟩ := State.takeInterrupt_ok hu
    have hau : u.kindAt a ≠ .ram := by rw [State.kindAt, hpu]; exact ha
    obtain ⟨hp, hb⟩ := complete_keeps_nonRam u.flags false n hv hau
    exact ⟨hp.trans hpu, hb.trans (hbu a ha)⟩
  case inr.inr.inr.inl => exact ⟨rfl, rfl⟩
  case inr.inr.inr.inr =>
    obtain ⟨hp, hb⟩ := complete_keeps_nonRam s.atFetch.fetchInstr.2.flags s.eiPending n hv
      (by rw [State.fetchInstr_kindAt]; exact ha)
    exact ⟨hp.trans (State.fetchInstr_platform _), hb.trans (State.fetchInstr_byteAt s.atFetch ha)⟩

/-- Settles O23: what is not RAM is so by the platform, which no step changes, so its bytes keep their content. -/
theorem stepKeepsNonRamBytes : Obligations.StepKeepsNonRamBytes := by
  rintro p a v s t ⟨rfl, ha, rfl⟩ h
  obtain ⟨hp, hb⟩ := step_keeps_nonRam h ha
  exact ⟨hp, ha, hb⟩

end Sys2Proof.Machine

/-! PROOF. The decoder and the encoder undo each other (spec 30_encoding.md rules R71 to R78): first what `decode` answers, format
by format, then each instruction, then which bytes are opcodes of two and of three bytes and which are undefined. -/

namespace Sys2Proof

open Sys2Proof.Machine (joinBytes hi_joinBytes lo_joinBytes mem_undefinedOpcodes_of_wf)

/-! ### From the instruction to its bytes and back -/

/-- Format F1 (30_encoding R71): the opcode alone names the instruction. -/
theorem decode_oneByte {op : Byte} {i : Instr} (hl : opLength op = 1) (hd : decodeOp op 0 0 = i) (rest : List Byte) :
    decode (oneByte op ++ rest) = .ok (i, rest) := by
  rw [← hd]
  simp [decode, oneByte, hl]

/-- Format F2 (30_encoding R71): `f` is the instruction as a function of byte 2. -/
theorem decode_twoBytes {op : Byte} {f : Byte → Instr} (hl : opLength op = 2) (hf : ∀ b2, decodeOp op b2 0 = f b2)
    (data : Byte) (rest : List Byte) : decode (twoBytes op data ++ rest) = .ok (f data, rest) := by
  rw [← hf]
  simp [decode, twoBytes, hl]

/-- Format F3 (30_encoding R71, R75): `f` is the instruction as a function of byte3 : byte2. -/
theorem decode_threeBytes {op : Byte} {f : Word → Instr} (hl : opLength op = 3)
    (hf : ∀ b2 b3, decodeOp op b2 b3 = f (joinBytes b3 b2)) (addr : Word) (rest : List Byte) :
    decode (threeBytes op addr ++ rest) = .ok (f addr, rest) := by
  simp [decode, threeBytes, hl, hf]

theorem decode_undefined {op : Byte} (h : op ∈ undefinedOpcodes) (rest : List Byte) :
    decode (oneByte op ++ rest) = .ok (.undefined op, rest) := by
  have key : ∀ op ∈ undefinedOpcodes, opLength op = 1 ∧ decodeOp op 0 0 = .undefined op := by decide
  exact decode_oneByte (key op h).1 (key op h).2 rest

/-- The bytes of a well-formed instruction decode to it, whatever follows them (30_encoding R71 to R78). The cases are the formats,
and within a format the fields the opcode carries: DDD, SSS, RP, NNN (R73). -/
theorem decode_encode_append {i : Instr} (hwf : i.wf = true) (rest : List Byte) : decode (encode i ++ rest) = .ok (i, rest) := by
  cases i
  case undefined op => exact decode_undefined (mem_undefinedOpcodes_of_wf hwf) rest
  case movRR dst src => cases dst <;> cases src <;> exact decode_oneByte rfl rfl rest
  case movRM r | movMR r | addR r | adcR r | subR r | sbbR r | inrR r | dcrR r | anaR r | xraR r | oraR r | cmpR r =>
    cases r <;> exact decode_oneByte rfl rfl rest
  case inx rp | dcx rp | dad rp | ldax rp | stax rp | push rp | pop rp => cases rp <;> exact decode_oneByte rfl rfl rest
  case rst n =>
    have key : ∀ n : BitVec 3, opLength (0b11#2 ++ n ++ 0b111#3) = 1 ∧ decodeOp (0b11#2 ++ n ++ 0b111#3) 0 0 = .rst n := by
      decide
    exact decode_oneByte (key n).1 (key n).2 rest
  case mviR dst data => cases dst <;> exact decode_twoBytes rfl (fun _ => rfl) data rest
  case mviM data | adi data | aci data | sui data | sbi data | ani data | xri data | ori data | cpi data | inPort data |
      outPort data =>
    exact decode_twoBytes rfl (fun _ => rfl) data rest
  case lxi rp data16 => cases rp <;> exact decode_threeBytes rfl (fun _ _ => rfl) data16 rest
  case lda addr | sta addr | lhld addr | shld addr | jmp addr | jnz addr | jz addr | jnc addr | jc addr | jpo addr | jpe addr |
      jp addr | jm addr | call addr | cnz addr | cz addr | cnc addr | cc addr | cpo addr | cpe addr | cp addr | cm addr =>
    exact decode_threeBytes rfl (fun _ _ => rfl) addr rest
  all_goals exact decode_oneByte rfl rfl rest

/-- Settles O1, by the formats of 30_encoding R71. -/
theorem decodeEncodeRoundTrip : Obligations.DecodeEncodeRoundTrip := fun _ rest hwf => decode_encode_append hwf rest

/-! ### From the bytes to the instruction and back -/

/-- What decodes is one, two or three bytes and what follows them, as the first byte announces (30_encoding R71, R74). -/
theorem decode_ok_cases {bytes rest : List Byte} {i : Instr} (h : decode bytes = .ok (i, rest)) :
    (∃ op, opLength op = 1 ∧ bytes = op :: rest ∧ i = decodeOp op 0 0) ∨
    (∃ op b2, opLength op = 2 ∧ bytes = op :: b2 :: rest ∧ i = decodeOp op b2 0) ∨
    (∃ op b2 b3, opLength op = 3 ∧ bytes = op :: b2 :: b3 :: rest ∧ i = decodeOp op b2 b3) := by
  unfold decode at h
  split at h
  case h_1 => cases h
  case h_2 op tail =>
    split at h
    case h_1 hl => cases h; exact .inl ⟨op, hl, rfl, rfl⟩
    case h_2 b2 _ hl => cases h; exact .inr (.inl ⟨op, b2, hl, rfl, rfl⟩)
    case h_3 b2 b3 _ hl => cases h; exact .inr (.inr ⟨op, b2, b3, hl, rfl, rfl⟩)
    case h_4 => cases h

/-- The first bytes of the two-byte instructions (30_encoding R74). -/
def twoByteOpcodes : List Byte :=
  [0x06, 0x0E, 0x16, 0x1E, 0x26, 0x2E, 0x36, 0x3E, 0xC6, 0xCE, 0xD6, 0xDE, 0xE6, 0xEE, 0xF6, 0xFE, 0xD3, 0xDB]

/-- The first bytes of the three-byte instructions (30_encoding R74). -/
def threeByteOpcodes : List Byte :=
  [0x01, 0x11, 0x21, 0x31, 0x22, 0x2A, 0x32, 0x3A, 0xC3, 0xC2, 0xCA, 0xD2, 0xDA, 0xE2, 0xEA, 0xF2, 0xFA,
    0xCD, 0xC4, 0xCC, 0xD4, 0xDC, 0xE4, 0xEC, 0xF4, 0xFC]

/-- The length of all 256 first bytes; an undefined opcode counts as one byte (30_encoding R74, log 13). -/
theorem opLength_eq (op : Byte) :
    opLength op = if op ∈ threeByteOpcodes then 3 else if op ∈ twoByteOpcodes then 2 else 1 := by
  revert op
  decide

theorem mem_twoByteOpcodes {op : Byte} (h : opLength op = 2) : op ∈ twoByteOpcodes := by
  rw [opLength_eq] at h
  split at h
  · cases h
  · split at h
    · assumption
    · cases h

theorem mem_threeByteOpcodes {op : Byte} (h : opLength op = 3) : op ∈ threeByteOpcodes := by
  rw [opLength_eq] at h
  split at h
  · assumption
  · split at h <;> cases h

theorem encode_decodeOp_one {op : Byte} (h : opLength op = 1) : encode (decodeOp op 0 0) = [op] := by
  revert op
  decide

theorem encode_decodeOp_two {op : Byte} (h : opLength op = 2) (b2 : Byte) : encode (decodeOp op b2 0) = [op, b2] := by
  have hm := mem_twoByteOpcodes h
  fin_cases hm <;> rfl

/-- Every three-byte opcode passes byte3 : byte2 on to its instruction, which is encoded by the two halves (30_encoding R75). -/
theorem encode_decodeOp_three {op : Byte} (h : opLength op = 3) (b2 b3 : Byte) :
    encode (decodeOp op b2 b3) = [op, b2, b3] := by
  have halves : encode (decodeOp op b2 b3) = threeBytes op (joinBytes b3 b2) := by
    have hm := mem_threeByteOpcodes h
    fin_cases hm <;> rfl
  rw [halves, threeBytes, lo_joinBytes, hi_joinBytes]

/-- Settles O2, by the length of what was read. -/
theorem decodedBytesEncodeBack : Obligations.DecodedBytesEncodeBack := by
  intro bytes i rest h
  rcases decode_ok_cases h with ⟨op, hl, rfl, rfl⟩ | ⟨op, b2, hl, rfl, rfl⟩ | ⟨op, b2, b3, hl, rfl, rfl⟩
  · exact ⟨decodeOp_wf op 0 0, by rw [encode_decodeOp_one hl]; rfl⟩
  · exact ⟨decodeOp_wf op b2 0, by rw [encode_decodeOp_two hl]; rfl⟩
  · exact ⟨decodeOp_wf op b2 b3, by rw [encode_decodeOp_three hl]; rfl⟩

/-- Settles O3: the table of all 256 first bytes holds of the defined ones. -/
theorem lengthFromFirstByte : Obligations.LengthFromFirstByte := fun op _ => opLength_eq op

/-! ### The undefined opcodes -/

theorem decodeMisc_undefined {op b2 b3 x : Byte} (h : decodeMisc op b2 b3 = .undefined x) : x = op := by
  simp only [decodeMisc] at h
  repeat' split at h
  all_goals cases h
  rfl

theorem decodeMov_ne_undefined (op x : Byte) : decodeMov op ≠ .undefined x := by
  unfold decodeMov
  split <;> exact nofun

theorem decodeAlu_ne_undefined (op x : Byte) : decodeAlu op ≠ .undefined x := by
  unfold decodeAlu
  split <;> exact nofun

theorem decodeControl_undefined {op b2 b3 x : Byte} (h : decodeControl op b2 b3 = .undefined x) : x = op := by
  simp only [decodeControl] at h
  split at h
  all_goals cases h
  all_goals rfl

/-- An undefined opcode names its own byte (30_encoding R78). -/
theorem decodeOp_undefined {op b2 b3 x : Byte} (h : decodeOp op b2 b3 = .undefined x) : x = op := by
  unfold decodeOp at h
  split at h
  · exact decodeMisc_undefined h
  · exact absurd h (decodeMov_ne_undefined op x)
  · exact absurd h (decodeAlu_ne_undefined op x)
  · exact decodeControl_undefined h

theorem decodeOp_of_mem_undefinedOpcodes {op : Byte} (h : op ∈ undefinedOpcodes) (b2 b3 : Byte) :
    decodeOp op b2 b3 = .undefined op := by
  fin_cases h <;> rfl

/-- Settles O4: an undefined instruction names the byte it was read from, and is well formed only if that byte is one of the
twelve. -/
theorem undefinedOpcodesAreTwelve : Obligations.UndefinedOpcodesAreTwelve := by
  intro op b2 b3 x
  constructor
  · intro h
    obtain rfl := decodeOp_undefined h
    exact ⟨rfl, mem_undefinedOpcodes_of_wf (h ▸ decodeOp_wf x b2 b3)⟩
  · rintro ⟨rfl, hm⟩
    exact decodeOp_of_mem_undefinedOpcodes hm b2 b3

/-! ### Words written out -/

/-- Settles O5: each is the encoding of its instruction, by hand from 30_encoding R77. -/
theorem decodedWords : Obligations.DecodedWords := ⟨rfl, rfl, rfl, rfl, rfl, rfl, rfl, rfl, rfl⟩

end Sys2Proof

/-! PROOF. The fetch (spec 30_encoding.md rule R70, 60_exceptions.md rule R252 part 5): what reading the bytes at PC gives, the step
that runs them, and the bytes that the model's loader places there. -/

namespace Sys2Proof.Machine

/-! ### Reads and fetches in the terms of `State.readCycle` -/

theorem State.memRead_readCycle {s : State} (h : s.holds = []) (k : CycleKind) (a : Word) :
    s.memRead k a = (s.readValue a, s.readCycle k a) := State.memRead_quiet h k a

/-- A read where RAM or ROM answers adds its cycle and uses no free value (20_memory R44). -/
theorem State.readCycle_memory {s : State} {a : Word} (h : s.holdsByte a) (k : CycleKind) :
    s.readCycle k a = { s with trace := { kind := k, addr := a, data := some (s.byteAt a) } :: s.trace } := by
  unfold State.readCycle
  rw [State.readValue_memory h, State.afterRead_memory h]

/-- A read does not depend on PC. -/
theorem State.setPc_readCycle (s : State) (p : Word) (k : CycleKind) (a : Word) :
    (s.setPc p).readCycle k a = (s.readCycle k a).setPc p := by
  have hd : ((s.setPc p).afterRead a).draws = (s.afterRead a).draws := by
    unfold State.afterRead
    rw [State.setPc_kindAt]
    split <;> rfl
  unfold State.readCycle
  rw [hd]
  rfl

theorem State.fetchByte_quiet {s : State} (h : s.holds = []) (k : CycleKind) :
    s.fetchByte k = (s.readValue s.pc, (s.readCycle k s.pc).setPc (s.pc + 1)) := by
  unfold State.fetchByte
  rw [State.memRead_readCycle h]

/-! ### Instruction bytes in memory -/

theorem word_succ_add (a : Word) (n : Nat) : a + 1 + BitVec.ofNat 16 n = a + BitVec.ofNat 16 (n + 1) := by
  rw [BitVec.ofNat_add, BitVec.add_assoc, BitVec.add_comm 1]
  rfl

/-- The state after the fetch of `bytes`, the first in a cycle of the type `k`: PC past them and the cycles in the trace. -/
def State.fetchedBytes (s : State) (bytes : List Byte) (k : CycleKind) : State :=
  { s with
    pc := s.pc + BitVec.ofNat 16 bytes.length
    trace := (fetchRecord s.pc bytes k).reverse ++ s.trace }

theorem State.fetchedBytes_single (s : State) (b : Byte) (k : CycleKind) :
    s.fetchedBytes [b] k =
      { s with pc := s.pc + 1, trace := { kind := k, addr := s.pc, data := some b } :: s.trace } := rfl

/-- The fetch of one byte and then of more in MEMORY READ cycles (50_machine_cycles R222). -/
theorem State.fetchedBytes_cons (s : State) (b : Byte) (bs : List Byte) (k : CycleKind) :
    (s.fetchedBytes [b] k).fetchedBytes bs .memRead = s.fetchedBytes (b :: bs) k := by
  rw [State.fetchedBytes_single]
  simp only [State.fetchedBytes, fetchRecord, List.length_cons, ← word_succ_add, List.reverse_cons, List.append_assoc,
    List.singleton_append]

theorem State.atPc_head {s : State} {b : Byte} {bs : List Byte} (h : s.atPc (b :: bs)) :
    s.holdsByte s.pc ∧ s.byteAt s.pc = b := by
  simpa using h 0 (Nat.zero_lt_succ _)

/-- Once the first byte is fetched, the others are at PC. -/
theorem State.atPc_tail {s : State} {b : Byte} {bs : List Byte} (h : s.atPc (b :: bs)) (k : CycleKind) :
    (s.fetchedBytes [b] k).atPc bs := by
  intro j hj
  have hnext := h (j + 1) (Nat.succ_lt_succ hj)
  rw [← word_succ_add] at hnext
  exact hnext

theorem State.atPc_of_append {s : State} {xs ys : List Byte} (h : s.atPc (xs ++ ys)) : s.atPc xs := by
  intro k hk
  obtain ⟨hkind, hbyte⟩ := h k (by rw [List.length_append]; omega)
  exact ⟨hkind, by rw [hbyte, List.getElem_append_left hk]⟩

theorem State.fetchByte_of_atPc {s : State} {b : Byte} {bs : List Byte} (hq : s.holds = []) (h : s.atPc (b :: bs))
    (k : CycleKind) : s.fetchByte k = (b, s.fetchedBytes [b] k) := by
  obtain ⟨hkind, hbyte⟩ := State.atPc_head h
  rw [State.fetchByte_quiet hq, State.readCycle_memory hkind, State.readValue_memory hkind, hbyte]
  rfl

theorem State.fetchWord_of_atPc {s : State} {b2 b3 : Byte} {bs : List Byte} (hq : s.holds = [])
    (h : s.atPc (b2 :: b3 :: bs)) : s.fetchWord = (joinBytes b3 b2, s.fetchedBytes [b2, b3] .memRead) := by
  unfold State.fetchWord
  rw [State.fetchByte_of_atPc hq h]
  dsimp only
  rw [State.fetchByte_of_atPc (by exact hq) (State.atPc_tail h .memRead), State.fetchedBytes_cons]

/-- Where the bytes at PC decode, the fetch reads that instruction and leaves PC past it (30_encoding R70), by the number of its
bytes. -/
theorem State.fetchInstr_of_decode {s : State} {bytes : List Byte} {i : Instr} (hq : s.holds = []) (h : s.atPc bytes)
    (hd : decode bytes = .ok (i, [])) : s.fetchInstr = (i, s.fetchedBytes bytes .fetch) := by
  unfold State.fetchInstr
  rcases decode_ok_cases hd with ⟨op, hl, rfl, rfl⟩ | ⟨op, b2, hl, rfl, rfl⟩ | ⟨op, b2, b3, hl, rfl, rfl⟩ <;>
    rw [State.fetchByte_of_atPc hq h] <;> simp only [hl]
  case inr.inl => rw [State.fetchByte_of_atPc (by exact hq) (State.atPc_tail h .fetch), State.fetchedBytes_cons]
  case inr.inr =>
    rw [State.fetchWord_of_atPc (by exact hq) (State.atPc_tail h .fetch), State.fetchedBytes_cons]
    simp

/-! ### The step -/

theorem State.atFetch_fetchedBytes {s : State} (h : s.undisturbed) (bytes : List Byte) :
    s.atFetch.fetchedBytes bytes .fetch = s.fetched bytes := by
  rw [State.atFetch_eq h]
  rfl

/-- A fetching step runs the instruction whose bytes stand at PC (60_exceptions R252 part 5). -/
theorem step_of_atPc {s : State} {i : Instr} {n : Nat} (hwf : i.wf = true) (hf : s.fetchesNext n) (hu : s.undisturbed)
    (h : s.atPc (encode i)) : step s = finish i s.flags s.eiPending n (exec i (s.fetched (encode i))) := by
  have hd : decode (encode i) = .ok (i, []) := by simpa using decode_encode_append hwf []
  have hs : s.atFetch.fetchInstr = (i, s.fetched (encode i)) := by
    rw [← State.atFetch_fetchedBytes hu]
    refine State.fetchInstr_of_decode ?_ ?_ hd <;> rw [State.atFetch_eq hu]
    exact h
  have hb := boundary_fetch hf
  rw [hs] at hb
  exact step_of_boundary_run hb

/-- What completing an instruction changes (60_exceptions R252 part 5, 50_machine_cycles R220, R232). -/
theorem complete_eq (i : Instr) (f : Flags) (enable : Bool) (n : Nat) (u : State) :
    complete i f enable n u =
      { u with
        inte := (enable && decide (i ≠ .di)) || u.inte
        holds := []
        clock := u.clock + (statesOf i f + n) } := by
  have hdi : (!isDi i) = decide (i ≠ .di) := by rw [Bool.eq_iff_iff]; simp [← isDi_iff]
  unfold complete
  rw [hdi]
  cases enable && decide (i ≠ .di) <;> rfl

/-- Settles O6: the fetch reads the bytes at PC back into the instruction, and `complete_eq` says what follows it. -/
theorem stepRunsDecodedInstruction : Obligations.StepRunsDecodedInstruction :=
  ⟨fun _ _ _ hwf hf hu h => step_of_atPc hwf hf hu h,
    fun i f enable n u => congrArg _ (complete_eq i f enable n u),
    fun _ _ _ _ _ => rfl⟩

/-! ### The model's loader (log 24) -/

/-- RAM or ROM answers at an address of a platform. -/
def Readable (p : Platform) (a : Word) : Prop := memKind p a = .ram ∨ memKind p a = .rom

theorem State.holdsByte_iff (s : State) (a : Word) : s.holdsByte a ↔ Readable s.platform a := Iff.rfl

theorem memKind_ram_region (p : Platform) (a b : Word) :
    memKind { p with regions := { first := a, last := a, kind := .ram } :: p.regions } b =
      if b = a then .ram else memKind p b := by
  have hab : a ≤ b ∧ b ≤ a ↔ b = a := 
    ⟨fun ⟨hab, hba⟩ => BitVec.le_antisymm hba hab, by rintro rfl; exact ⟨BitVec.le_refl _, BitVec.le_refl _⟩⟩
  simp only [memKind, kindIn, hab]

/-- `readableAt` makes its own address readable and leaves every readable address so. -/
theorem readableAt_readable (p : Platform) (a b : Word) (h : b = a ∨ Readable p b) : Readable (readableAt p a) b := by
  unfold readableAt
  split
  case h_1 hk => rcases h with rfl | h; exacts [.inl hk, h]
  case h_2 hk => rcases h with rfl | h; exacts [.inr hk, h]
  all_goals
    unfold Readable
    rw [memKind_ram_region]
    split
    · exact .inl rfl
    · exact h.resolve_left ‹_›

@[simp] theorem quietNext_headD (es : List Env) : (quietNext es).headD {} = {} := by cases es <;> rfl

@[simp] theorem State.placeBytes_env (s : State) (b1 b2 b3 : Byte) : (s.placeBytes b1 b2 b3).env = {} :=
  quietNext_headD s.inputs

theorem State.placeBytes_fetchesNext (s : State) (b1 b2 b3 : Byte) : (s.placeBytes b1 b2 b3).fetchesNext 0 := by
  refine ⟨⟨?_, ?_⟩, ?_, rfl, ?_⟩ <;> rw [State.placeBytes_env] <;> rfl

theorem State.placeBytes_undisturbed (s : State) (b1 b2 b3 : Byte) : (s.placeBytes b1 b2 b3).undisturbed :=
  .inr (by rw [State.placeBytes_env])

theorem State.placeBytes_holdsByte (s : State) (b1 b2 b3 : Byte) {a : Word} (h : a = s.pc ∨ a = s.pc + 1 ∨ a = s.pc + 2) :
    (s.placeBytes b1 b2 b3).holdsByte a := by
  rw [State.holdsByte_iff]
  rcases h with rfl | rfl | rfl
  · exact readableAt_readable _ _ _ (.inr (readableAt_readable _ _ _ (.inr (readableAt_readable _ _ _ (.inl rfl)))))
  · exact readableAt_readable _ _ _ (.inr (readableAt_readable _ _ _ (.inl rfl)))
  · exact readableAt_readable _ _ _ (.inl rfl)

/-- The three bytes read back: the later writes are at other addresses. -/
theorem State.placeBytes_byteAt {s : State} (h : s.mem.wf = true) (b1 b2 b3 : Byte) :
    (s.placeBytes b1 b2 b3).byteAt s.pc = b1 ∧ (s.placeBytes b1 b2 b3).byteAt (s.pc + 1) = b2 ∧
      (s.placeBytes b1 b2 b3).byteAt (s.pc + 2) = b3 := by
  have h1 : (s.mem.write s.pc.toNat b1).wf = true := Memory.write_wf _ _ h
  have h2 : ((s.mem.write s.pc.toNat b1).write (s.pc + 1).toNat b2).wf = true := Memory.write_wf _ _ h1
  have h01 : s.pc.toNat ≠ (s.pc + 1).toNat := word_toNat_ne (by bv_omega)
  have h02 : s.pc.toNat ≠ (s.pc + 2).toNat := word_toNat_ne (by bv_omega)
  have h12 : (s.pc + 1).toNat ≠ (s.pc + 2).toNat := word_toNat_ne (by bv_omega)
  unfold State.placeBytes State.byteAt
  refine ⟨?_, ?_, Memory.read_write_same _ _ h2⟩
  · rw [Memory.read_write_other _ _ h02, Memory.read_write_other _ _ h01, Memory.read_write_same _ _ h]
  · rw [Memory.read_write_other _ _ h12, Memory.read_write_same _ _ h1]

theorem State.placeBytes_atPc {s : State} (h : s.mem.wf = true) (b1 b2 b3 : Byte) :
    (s.placeBytes b1 b2 b3).atPc [b1, b2, b3] := by
  obtain ⟨hb1, hb2, hb3⟩ := State.placeBytes_byteAt h b1 b2 b3
  intro k hk
  match k, hk with
  | 0, _ =>
    rw [show (s.placeBytes b1 b2 b3).pc + BitVec.ofNat 16 0 = s.pc from BitVec.add_zero s.pc]
    exact ⟨s.placeBytes_holdsByte b1 b2 b3 (.inl rfl), hb1⟩
  | 1, _ => exact ⟨s.placeBytes_holdsByte b1 b2 b3 (.inr (.inl rfl)), hb2⟩
  | 2, _ => exact ⟨s.placeBytes_holdsByte b1 b2 b3 (.inr (.inr rfl)), hb3⟩

/-- What a row of the opcode table decodes to is well formed, and its encoding begins the three bytes of the row. -/
theorem decodeTableWord_some {nbits w : Nat} {i : Instr} (h : decodeTableWord nbits w = some i) :
    i.wf = true ∧ ∃ rest, encode i ++ rest = [tableByte nbits w 0, tableByte nbits w 1, tableByte nbits w 2] := by
  unfold decodeTableWord at h
  split at h
  · next j rest hd =>
    cases h
    obtain ⟨hwf, he⟩ := decodedBytesEncodeBack _ _ _ hd
    exact ⟨hwf, rest, he⟩
  · cases h

/-- Settles O7: the loader leaves the encoding of the instruction at PC, at a quiet boundary, and O6 says what the step does. -/
theorem placedInstructionRunsNext : Obligations.PlacedInstructionRunsNext := by
  intro s nbits w i hm hw
  obtain ⟨hwf, rest, he⟩ := decodeTableWord_some hw
  have hat : (s.withFetchWord nbits w).atPc (encode i) := State.atPc_of_append (he ▸ State.placeBytes_atPc hm _ _ _)
  exact step_of_atPc hwf (s.placeBytes_fetchesNext _ _ _) (s.placeBytes_undisturbed _ _ _) hat

end Sys2Proof.Machine

/-! PROOF. The twelve undefined opcodes (spec 30_encoding.md rule R78, decision D1, 93 G2): what the reported duplicates do, from
what the shared operations come to where no hold is due. -/

namespace Sys2Proof.Machine

/-! ### Bytes 2 and 3, and the stack, where no hold is due -/

theorem State.fetchWord_quiet {s : State} (h : s.holds = []) :
    s.fetchWord =
      (joinBytes ((s.readCycle .memRead s.pc).readValue (s.pc + 1)) (s.readValue s.pc),
        ((s.readCycle .memRead s.pc).readCycle .memRead (s.pc + 1)).setPc (s.pc + 2)) := by
  have hpc : s.pc + 1 + 1 = s.pc + 2 := word_succ_add s.pc 1
  unfold State.fetchWord
  rw [State.fetchByte_quiet h]
  dsimp only
  rw [State.fetchByte_quiet (by exact h), State.setPc_readCycle, State.setPc_pc, hpc]
  rfl

/-- A pop of any two bytes, in memory or not (45 R202). -/
theorem State.popWord_readCycle {s : State} (h : s.holds = []) :
    s.popWord = (joinBytes s.popHigh s.popLow, { s.popReads with sp := s.sp + 2 }) := by
  unfold State.popWord
  rw [State.memRead_readCycle h]
  dsimp only
  rw [State.memRead_readCycle (by exact h)]
  rfl

theorem State.returnFromStack_quiet {s : State} (h : s.holds = []) :
    s.returnFromStack = { s.popReads with sp := s.sp + 2, pc := joinBytes s.popHigh s.popLow } := by
  unfold State.returnFromStack
  rw [State.popWord_readCycle h]
  rfl

/-- A push stores its two bytes below SP and nothing else (45 R200, 20_memory R45). -/
theorem State.storesAt_memAfterPush (s : State) (w : Word) :
    StoresAt s [(s.sp - 1, hi w), (s.sp - 2, lo w)] (s.memAfterPush w) where
  stored := by
    intro hw a v hav hr
    simp only [List.mem_cons, Prod.mk.injEq, List.not_mem_nil, or_false] at hav
    rcases hav with ⟨rfl, rfl⟩ | ⟨rfl, rfl⟩
    · exact State.memAfterPush_high w hw hr
    · exact State.memAfterPush_low w hw hr
  lost := fun _ h => State.memAfterPush_notRam s w h
  other := by
    intro a h
    refine State.memAfterPush_other s w ?_ ?_ <;> rintro rfl
    · exact h (hi w) (by simp)
    · exact h (lo w) (by simp)
  canonical := State.memAfterPush_wf s w

theorem State.callTo_quiet {s : State} (h : s.holds = []) (target : Word) :
    s.callTo target =
      { s with
        sp := s.sp - 2
        pc := target
        mem := s.memAfterPush s.pc
        trace := { kind := .stackWrite, addr := s.sp - 2, data := some (lo s.pc) } ::
          { kind := .stackWrite, addr := s.sp - 1, data := some (hi s.pc) } :: s.trace } := by
  unfold State.callTo
  rw [State.pushWord_quiet h]
  rfl

/-! ### The reported duplicates (93 G2) -/

theorem State.undefinedDuplicate_nop {op : Byte} (h : op ∈ [0x08, 0x10, 0x18, 0x20, 0x28, 0x30, 0x38]) (s : State) :
    s.undefinedDuplicate op = s := by
  have hop : op ≠ 0xCB ∧ op ≠ 0xD9 ∧ ¬(op = 0xDD ∨ op = 0xED ∨ op = 0xFD) := by
    revert op
    decide
  obtain ⟨hjmp, hret, hcall⟩ := hop
  rw [State.undefinedDuplicate, if_neg hjmp, if_neg hret, if_neg hcall]

theorem State.undefinedDuplicate_jmp (s : State) : s.undefinedDuplicate 0xCB = s.fetchWord.2.setPc s.fetchWord.1 := rfl

theorem State.undefinedDuplicate_ret (s : State) : s.undefinedDuplicate 0xD9 = s.returnFromStack := rfl

theorem State.undefinedDuplicate_call {op : Byte} (h : op ∈ [0xDD, 0xED, 0xFD]) (s : State) :
    s.undefinedDuplicate op = s.fetchWord.2.callTo s.fetchWord.1 := by
  fin_cases h <;> rfl

/-- Settles O58, by the platform parameter and then by the four kinds of duplicate. -/
theorem undefinedOpcodeResult : Obligations.UndefinedOpcodeResult := by
  refine fun s => ⟨fun op _ hf => exec_undefined_fault hf op, fun hsil hq => ⟨fun op hop => ?_, ?_, ?_⟩⟩
  · rw [exec_undefined_silicon hsil, State.undefinedDuplicate_nop hop]
  · rw [Returns, exec_undefined_silicon hsil, State.undefinedDuplicate_ret, State.returnFromStack_quiet hq]
  · rintro u target rfl rfl
    refine ⟨?_, fun op hop => ⟨s.memAfterPush (s.pc + 2), ?_, s.storesAt_memAfterPush (s.pc + 2)⟩⟩
    · rw [exec_undefined_silicon hsil, State.undefinedDuplicate_jmp, State.fetchWord_quiet hq]
      rfl
    · rw [exec_undefined_silicon hsil, State.undefinedDuplicate_call hop, State.fetchWord_quiet hq,
        State.callTo_quiet (by exact hq)]
      rfl

end Sys2Proof.Machine

/-! PROOF. The data transfer group (spec 41_data_transfer.md rules R100 to R112): what a move, a load and a store come to where no
hold is due. -/

namespace Sys2Proof.Machine

/-! ### Formats and register pairs -/

/-- A three-byte instruction: byte 2 is the low-order byte of its operand, byte 3 the high-order byte (30_encoding R75). -/
theorem hasFormat_threeBytes {i : Instr} {op b2 b3 : Byte} {cycles states : Nat}
    (he : encode i = threeBytes op (joinBytes b3 b2)) (ht : ∀ f, cyclesOf i f = cycles ∧ statesOf i f = states) :
    hasFormat i [op, b2, b3] cycles states :=
  ⟨by rw [he, threeBytes, lo_joinBytes, hi_joinBytes], ht⟩

theorem State.setPair_bc_joinBytes (s : State) (high low : Byte) :
    s.setPair .bc (joinBytes high low) = { s with regs := { s.regs with b := high, c := low } } := by
  rw [State.setPair, hi_joinBytes, lo_joinBytes]
  rfl

theorem State.setPair_de_joinBytes (s : State) (high low : Byte) :
    s.setPair .de (joinBytes high low) = { s with regs := { s.regs with d := high, e := low } } := by
  rw [State.setPair, hi_joinBytes, lo_joinBytes]
  rfl

theorem State.setPair_hl_joinBytes (s : State) (high low : Byte) :
    s.setPair .hl (joinBytes high low) = { s with regs := { s.regs with h := high, l := low } } := by
  rw [State.setPair, hi_joinBytes, lo_joinBytes]
  rfl

/-! ### Memory after the stores of an instruction -/

/-- One write stores its byte and nothing else (20_memory R45). -/
theorem State.storesAt_memAfterWrite (s : State) (a : Word) (v : Byte) : StoresAt s [(a, v)] (s.memAfterWrite a v) where
  stored := by
    intro hw b w hb hr
    obtain ⟨rfl, rfl⟩ := Prod.mk.inj (List.mem_singleton.mp hb)
    exact State.memAfterWrite_ram w hw hr
  lost := by
    intro b hr
    by_cases hb : b = a
    · subst hb
      rw [State.memAfterWrite_notRam v hr]
      rfl
    · exact State.memAfterWrite_other s v hb
  other := by
    intro b hb
    refine State.memAfterWrite_other s v ?_
    rintro rfl
    exact hb v (List.mem_singleton.mpr rfl)
  canonical := State.memAfterWrite_wf s a v

/-- Stores after stores, where none of the later ones is to an address of the earlier ones. -/
theorem StoresAt.append {s : State} {cs ds : List (Word × Byte)} {m n : Memory} (first : StoresAt s cs m)
    (second : StoresAt { s with mem := m } ds n) (apart : ∀ a v w, (a, v) ∈ cs → (a, w) ∉ ds) :
    StoresAt s (cs ++ ds) n where
  stored := by
    intro hw a v hav hr
    rcases List.mem_append.mp hav with hc | hd
    · exact (second.other a fun w => apart a v w hc).trans (first.stored hw a v hc hr)
    · exact second.stored (first.canonical hw) a v hd hr
  lost := fun a hr => (second.lost a hr).trans (first.lost a hr)
  other := fun a h =>
    (second.other a fun v hd => h v (List.mem_append_right cs hd)).trans
      (first.other a fun v hc => h v (List.mem_append_left ds hc))
  canonical := fun hw => second.canonical (first.canonical hw)

/-- Memory after a write of `v` at `a` and then of `w` at `b`. -/
def State.memAfterTwoWrites (s : State) (a : Word) (v : Byte) (b : Word) (w : Byte) : Memory :=
  State.memAfterWrite { s with mem := s.memAfterWrite a v } b w

theorem State.storesAt_memAfterTwoWrites (s : State) {a b : Word} (v w : Byte) (h : b ≠ a) :
    StoresAt s [(a, v), (b, w)] (s.memAfterTwoWrites a v b w) := by
  refine (s.storesAt_memAfterWrite a v).append (State.storesAt_memAfterWrite _ b w) ?_
  intro c x y hc hc'
  obtain ⟨rfl, -⟩ := Prod.mk.inj (List.mem_singleton.mp hc)
  obtain ⟨rfl, -⟩ := Prod.mk.inj (List.mem_singleton.mp hc')
  exact h rfl

/-- Two writes where no hold is due (20_memory R45). -/
theorem State.memWrite_memWrite_quiet {s : State} (h : s.holds = []) (k : CycleKind) (a b : Word) (v w : Byte) :
    (s.memWrite k a v).memWrite k b w =
      { s with
        mem := s.memAfterTwoWrites a v b w
        trace := { kind := k, addr := b, data := some w } :: { kind := k, addr := a, data := some v } :: s.trace } := by
  rw [State.memWrite_quiet h, State.memWrite_quiet (by exact h)]
  rfl

/-! ### One read, one write -/

/-- An instruction that reads a byte and puts it in a register loads that register (20_memory R44). -/
theorem loadsByte_of_exec {i : Instr} {s : State} {addr : Word} {dst : Reg} (hq : s.holds = [])
    (hx : exec i s = .next ((s.memRead .memRead addr).2.setReg dst (s.memRead .memRead addr).1)) :
    LoadsByte i s addr dst := by
  refine ⟨s.regs.set dst (s.readValue addr), ?_, fun q => Regs.get_set s.regs dst q _⟩
  rw [hx, State.memRead_readCycle hq]
  rfl

/-- An instruction that is one write stores its byte (20_memory R45). -/
theorem storesByte_of_exec {i : Instr} {s : State} {addr : Word} {v : Byte} (hq : s.holds = [])
    (hx : exec i s = .next (s.memWrite .memWrite addr v)) : StoresByte i s addr v :=
  ⟨s.memAfterWrite addr v, by rw [hx, State.memWrite_quiet hq], s.storesAt_memAfterWrite addr v⟩

/-! ### The obligations -/

/-- Settles O34: each form is one read at its own address, and `State.readValue_memory` says what RAM and ROM answer. -/
theorem loadResult : Obligations.LoadResult := by
  refine ⟨fun s hq => ⟨fun dst => ?movRM, fun b2 b3 => ?lda, ?ldaxBc, ?ldaxDe⟩, fun s a h => ?inMemory⟩
  case movRM => exact ⟨⟨rfl, fun _ => ⟨rfl, rfl⟩⟩, loadsByte_of_exec hq (exec_movRM dst s)⟩
  case lda => exact ⟨hasFormat_threeBytes rfl fun _ => ⟨rfl, rfl⟩, loadsByte_of_exec hq (exec_lda _ s)⟩
  case ldaxBc => exact ⟨⟨rfl, fun _ => ⟨rfl, rfl⟩⟩, loadsByte_of_exec hq (exec_ldax .bc s)⟩
  case ldaxDe => exact ⟨⟨rfl, fun _ => ⟨rfl, rfl⟩⟩, loadsByte_of_exec hq (exec_ldax .de s)⟩
  case inMemory => exact ⟨State.readValue_memory h, congrArg State.draws (State.afterRead_memory h)⟩

/-- Settles O35: each form is one write at its own address. -/
theorem storeResult : Obligations.StoreResult := by
  refine fun s hq => ⟨fun src => ?movMR, fun data => ?mviM, fun b2 b3 => ?sta, ?staxBc, ?staxDe⟩
  case movMR => exact ⟨⟨rfl, fun _ => ⟨rfl, rfl⟩⟩, storesByte_of_exec hq (exec_movMR src s)⟩
  case mviM => exact ⟨⟨rfl, fun _ => ⟨rfl, rfl⟩⟩, storesByte_of_exec hq (exec_mviM data s)⟩
  case sta => exact ⟨hasFormat_threeBytes rfl fun _ => ⟨rfl, rfl⟩, storesByte_of_exec hq (exec_sta _ s)⟩
  case staxBc => exact ⟨⟨rfl, fun _ => ⟨rfl, rfl⟩⟩, storesByte_of_exec hq (exec_stax .bc s)⟩
  case staxDe => exact ⟨⟨rfl, fun _ => ⟨rfl, rfl⟩⟩, storesByte_of_exec hq (exec_stax .de s)⟩

/-- Settles O36: two reads, or two writes at addresses that differ even where the second wraps. -/
theorem hlDirectResult : Obligations.HlDirectResult := by
  rintro s b2 b3 addr hq rfl
  refine ⟨hasFormat_threeBytes rfl fun _ => ⟨rfl, rfl⟩, ?lhld, hasFormat_threeBytes rfl fun _ => ⟨rfl, rfl⟩,
    _, ?shld, s.storesAt_memAfterTwoWrites _ _ (word_succ_ne _)⟩
  case lhld =>
    rw [exec_lhld, State.memRead_readCycle hq, State.memRead_readCycle (by exact hq), State.setPair_hl_joinBytes]
    rfl
  case shld =>
    rw [exec_shld, State.memWrite_memWrite_quiet hq]
    rfl

/-- Settles O33, by what writing a register and what writing a pair comes to. -/
theorem moveResult : Obligations.MoveResult := by
  refine fun s => ⟨fun dst src => ⟨⟨rfl, fun _ => ⟨rfl, rfl⟩⟩, ?movRR⟩, fun dst data => ⟨⟨rfl, fun _ => ⟨rfl, rfl⟩⟩, ?mviR⟩,
    fun b2 b3 => ⟨fun rp => hasFormat_threeBytes rfl fun _ => ⟨rfl, rfl⟩, ?lxiBc, ?lxiDe, ?lxiHl, ?lxiSp⟩,
    ⟨rfl, fun _ => ⟨rfl, rfl⟩⟩, ?xchg⟩
  case movRR => exact ⟨_, exec_movRR dst src s, fun q => Regs.get_set s.regs dst q _⟩
  case mviR => exact ⟨_, exec_mviR dst data s, fun q => Regs.get_set s.regs dst q data⟩
  case lxiBc => rw [exec_lxi, State.setPair_bc_joinBytes]
  case lxiDe => rw [exec_lxi, State.setPair_de_joinBytes]
  case lxiHl => rw [exec_lxi, State.setPair_hl_joinBytes]
  case lxiSp => exact exec_lxi .sp _ s
  case xchg => rw [exec_xchg, State.pair, State.pair, State.setPair_hl_joinBytes, State.setPair_de_joinBytes]

end Sys2Proof.Machine

/-! PROOF. The arithmetic group (spec 42_arithmetic.md rules R120 to R141): what an instruction computes is a flag computation
or a 16-bit sum, given as a number by a lemma of its own; the rest is where the result goes in the state. -/

namespace Sys2Proof.Machine

/-! ### The memory operand where no hold is due -/

theorem State.readM_quiet {s : State} (h : s.holds = []) : s.readM = (s.readValue s.hl, s.readCycle .memRead s.hl) :=
  State.memRead_readCycle h .memRead s.hl

/-- M read and then written: the one address in two cycles, the read first (42_arithmetic R135, R137). -/
theorem State.readM_writeM_quiet {s : State} (h : s.holds = []) (v : Byte) (f : Flags) :
    (s.readM.2.writeM v).setFlags f =
      { s.readCycle .memRead s.hl with
        mem := s.memAfterWrite s.hl v
        flags := f
        trace := { kind := .memWrite, addr := s.hl, data := some v } :: (s.readCycle .memRead s.hl).trace } := by
  rw [State.readM_quiet h, State.writeM, State.memWrite_quiet (by exact h)]
  rfl

/-! ### Addition and subtraction -/

/-- An instruction that writes A and the flags after reads that leave the registers alone. -/
theorem accumulates_of_exec {i : Instr} {s u : State} {r : Byte} {f : Flags} {P : Byte → Flags → Prop}
    (hu : u.regs = s.regs) (hx : exec i s = .next ((u.setReg .a r).setFlags f)) (hp : P r f) : Accumulates i s u P :=
  ⟨u.regs.set .a r, f, hx, hp, fun q hq => by rw [Regs.get_set_other _ _ hq, hu]⟩

theorem accumulates_sum {i : Instr} {s u : State} {v : Byte} {cin : Bool} (hu : u.regs = s.regs)
    (hx : exec i s = .next (u.addToA v cin)) : Accumulates i s u (IsSum s.regs.a v cin) := by
  refine accumulates_of_exec hu hx ?_
  rw [State.reg_eq, hu]
  exact add8_isSum s.regs.a v cin u.flags

theorem accumulates_difference {i : Instr} {s u : State} {v : Byte} {bin : Bool} (hu : u.regs = s.regs)
    (hx : exec i s = .next (u.subFromA v bin)) : Accumulates i s u (IsDifference s.regs.a v bin) := by
  refine accumulates_of_exec hu hx ?_
  rw [State.reg_eq, hu]
  exact sub8_isDifference s.regs.a v bin u.flags

/-- Settles O37: the six forms differ only in where the operand comes from and whether the old CY is added. -/
theorem addResult : Obligations.AddResult := by
  refine fun s => ⟨fun r => ⟨⟨rfl, fun _ => ⟨rfl, rfl⟩⟩, ?addR⟩, fun data => ⟨⟨rfl, fun _ => ⟨rfl, rfl⟩⟩, ?adi⟩,
    fun r => ⟨⟨rfl, fun _ => ⟨rfl, rfl⟩⟩, ?adcR⟩, fun data => ⟨⟨rfl, fun _ => ⟨rfl, rfl⟩⟩, ?aci⟩,
    ⟨rfl, fun _ => ⟨rfl, rfl⟩⟩, ⟨rfl, fun _ => ⟨rfl, rfl⟩⟩, ?memory⟩
  case addR => exact accumulates_sum rfl (exec_addR r s)
  case adi => exact accumulates_sum rfl (exec_adi data s)
  case adcR => exact accumulates_sum rfl (exec_adcR r s)
  case aci => exact accumulates_sum rfl (exec_aci data s)
  case memory =>
    rintro hq _ rfl
    refine ⟨accumulates_sum rfl ?addM, accumulates_sum rfl ?adcM⟩
    case addM =>
      rw [exec_addM, State.readM_quiet hq]
      rfl
    case adcM =>
      rw [exec_adcM, State.readM_quiet hq]
      rfl

/-- Settles O38: as for the additions, with the old CY as the borrow. -/
theorem subtractResult : Obligations.SubtractResult := by
  refine fun s => ⟨fun r => ⟨⟨rfl, fun _ => ⟨rfl, rfl⟩⟩, ?subR⟩, fun data => ⟨⟨rfl, fun _ => ⟨rfl, rfl⟩⟩, ?sui⟩,
    fun r => ⟨⟨rfl, fun _ => ⟨rfl, rfl⟩⟩, ?sbbR⟩, fun data => ⟨⟨rfl, fun _ => ⟨rfl, rfl⟩⟩, ?sbi⟩,
    ⟨rfl, fun _ => ⟨rfl, rfl⟩⟩, ⟨rfl, fun _ => ⟨rfl, rfl⟩⟩, ?memory⟩
  case subR => exact accumulates_difference rfl (exec_subR r s)
  case sui => exact accumulates_difference rfl (exec_sui data s)
  case sbbR => exact accumulates_difference rfl (exec_sbbR r s)
  case sbi => exact accumulates_difference rfl (exec_sbi data s)
  case memory =>
    rintro hq _ rfl
    refine ⟨accumulates_difference rfl ?subM, accumulates_difference rfl ?sbbM⟩
    case subM =>
      rw [exec_subM, State.readM_quiet hq]
      rfl
    case sbbM =>
      rw [exec_sbbM, State.readM_quiet hq]
      rfl

/-! ### Increment and decrement of a byte -/

theorem increment_toNat (v : Byte) (f : Flags) : (increment v f).1.toNat = (v.toNat + 1) % 256 := by
  rw [increment_fst, BitVec.toNat_add]
  rfl

/-- The carry out of bit 3 shows in the result: its low nibble is 0 (42_arithmetic R134). -/
theorem increment_ac_result (v : Byte) (f : Flags) :
    (increment v f).2.ac = decide ((increment v f).1.toNat % 16 = 0) := by
  rw [increment_ac, increment_toNat]
  exact decide_eq_decide.mpr (by omega)

theorem increment_zspOf_result (v : Byte) (f : Flags) : ZspOf (increment v f).1 (increment v f).2 := by
  rw [increment_fst]
  exact increment_zspOf v f

theorem decrement_toNat (v : Byte) (f : Flags) : ((decrement v f).1.toNat + 1) % 256 = v.toNat := by
  have hv : (decrement v f).1 + 1 = v := by rw [decrement_fst, BitVec.sub_add_cancel]
  exact congrArg BitVec.toNat hv

theorem decrement_zspOf_result (v : Byte) (f : Flags) : ZspOf (decrement v f).1 (decrement v f).2 := by
  rw [decrement_fst]
  exact decrement_zspOf v f

/-- Settles O39: `increment` put in the register, or in one read and one write of M. -/
theorem incrementResult : Obligations.IncrementResult := by
  refine fun s => ⟨fun r => ⟨⟨rfl, fun _ => ⟨rfl, rfl⟩⟩, _, _, exec_inrR r s, ?inrR⟩, ⟨rfl, fun _ => ⟨rfl, rfl⟩⟩, ?inrM⟩
  case inrR =>
    rw [State.reg_eq, State.setReg_regs, Regs.get_set_same]
    exact ⟨increment_toNat _ _, fun q hq => Regs.get_set_other _ _ hq, increment_zspOf_result _ _, increment_cy _ _,
      increment_ac_result _ _⟩
  case inrM =>
    rintro hq _ rfl
    refine ⟨(increment (s.readValue s.hl) s.flags).1, s.memAfterWrite s.hl _, (increment (s.readValue s.hl) s.flags).2,
      ?exec, increment_toNat _ _, s.storesAt_memAfterWrite _ _, increment_zspOf_result _ _, increment_cy _ _,
      increment_ac_result _ _⟩
    rw [exec_inrM, State.readM_writeM_quiet hq]
    rfl

/-- Settles O40: `decrement` put in the register, or in one read and one write of M. -/
theorem decrementResult : Obligations.DecrementResult := by
  refine fun s => ⟨fun r => ⟨⟨rfl, fun _ => ⟨rfl, rfl⟩⟩, _, _, exec_dcrR r s, ?dcrR⟩, ⟨rfl, fun _ => ⟨rfl, rfl⟩⟩, ?dcrM⟩
  case dcrR =>
    rw [State.reg_eq, State.setReg_regs, Regs.get_set_same]
    exact ⟨decrement_toNat _ _, fun q hq => Regs.get_set_other _ _ hq, decrement_zspOf_result _ _, decrement_cy _ _,
      decrement_ac _ _⟩
  case dcrM =>
    rintro hq _ rfl
    refine ⟨(decrement (s.readValue s.hl) s.flags).1, s.memAfterWrite s.hl _, (decrement (s.readValue s.hl) s.flags).2,
      ?exec, decrement_toNat _ _, s.storesAt_memAfterWrite _ _, decrement_zspOf_result _ _, decrement_cy _ _,
      decrement_ac _ _⟩
    rw [exec_dcrM, State.readM_writeM_quiet hq]
    rfl

/-! ### Register pairs -/

/-- Writing a pair changes nothing but registers and SP (10_state R13, R14). -/
theorem State.setPair_eq (s : State) (rp : Pair) (v : Word) :
    s.setPair rp v = { s with regs := (s.setPair rp v).regs, sp := (s.setPair rp v).sp } := by
  cases rp <;> rfl

/-- Different pairs share no register (10_state R14). -/
theorem State.pair_setPair_other (s : State) {rp q : Pair} (v : Word) (h : q ≠ rp) :
    (s.setPair rp v).pair q = s.pair q := by
  cases rp <;> cases q <;> trivial

/-- A is in no pair (10_state R14). -/
theorem State.setPair_a (s : State) (rp : Pair) (v : Word) : (s.setPair rp v).regs.a = s.regs.a := by
  cases rp <;> rfl

/-- An instruction that writes one pair: what the pairs and A hold after it. -/
theorem exec_setPair_pairs {i : Instr} {s : State} {rp : Pair} {w : Word} (hx : exec i s = .next (s.setPair rp w)) :
    ∃ g p, exec i s = .next { s with regs := g, sp := p } ∧
      State.pair { s with regs := g, sp := p } rp = w ∧
      (∀ q, q ≠ rp → State.pair { s with regs := g, sp := p } q = s.pair q) ∧ g.a = s.regs.a := by
  refine ⟨(s.setPair rp w).regs, (s.setPair rp w).sp, ?_⟩
  rw [← State.setPair_eq]
  exact ⟨hx, s.pair_setPair rp w, fun q hq => s.pair_setPair_other w hq, s.setPair_a rp w⟩

/-- Settles O41, by the pair read back and the wrap of 16-bit words (decision D4). -/
theorem pairStepResult : Obligations.PairStepResult := by
  refine fun s rp => ⟨⟨rfl, fun _ => ⟨rfl, rfl⟩⟩, ?inx, ⟨rfl, fun _ => ⟨rfl, rfl⟩⟩, ?dcx⟩
  case inx =>
    obtain ⟨g, p, hx, hw, hother, ha⟩ := exec_setPair_pairs (exec_inx rp s)
    refine ⟨g, p, hx, ?_, hother, ha⟩
    rw [hw, BitVec.toNat_add]
    rfl
  case dcx =>
    obtain ⟨g, p, hx, hw, hother, ha⟩ := exec_setPair_pairs (exec_dcx rp s)
    refine ⟨g, p, hx, ?_, hother, ha⟩
    have hback : s.pair rp - 1 + 1 = s.pair rp := BitVec.sub_add_cancel _ _
    rw [hw]
    exact congrArg BitVec.toNat hback

/-! ### The double precision add -/

/-- The low 16 bits of the 17-bit sum of DAD (42_arithmetic R140). -/
theorem sum17_low_toNat (a b : Word) :
    ((a.setWidth 17 + b.setWidth 17).extractLsb' 0 16).toNat = (a.toNat + b.toNat) % 65536 := by
  simp only [BitVec.extractLsb'_toNat, BitVec.toNat_add, BitVec.toNat_setWidth, Nat.shiftRight_zero]
  omega

/-- Bit 16 of the 17-bit sum of DAD is the carry out of the add (42_arithmetic R140). -/
theorem sum17_carry (a b : Word) :
    (a.setWidth 17 + b.setWidth 17).getLsbD 16 = decide (65536 ≤ a.toNat + b.toNat) := by
  have ha := a.isLt
  have hb := b.isLt
  simp only [BitVec.getLsbD, BitVec.toNat_add, BitVec.toNat_setWidth, Nat.testBit_eq_decide_div_mod_eq]
  exact decide_eq_decide.mpr (by omega)

/-- Settles O42: H and L take the halves of the low 16 bits of the 17-bit sum. -/
theorem doubleAddResult : Obligations.DoubleAddResult := by
  intro s rp
  refine ⟨⟨rfl, fun _ => ⟨rfl, rfl⟩⟩, hi ((s.hl.setWidth 17 + (s.pair rp).setWidth 17).extractLsb' 0 16),
    lo ((s.hl.setWidth 17 + (s.pair rp).setWidth 17).extractLsb' 0 16), ?exec, ?sum⟩
  case exec =>
    rw [exec_dad, sum17_carry]
    rfl
  case sum =>
    rw [joinBytes_hi_lo, sum17_low_toNat]
    rfl

/-! ### Decimal adjust -/

/-- What step 2 of DAA adds (42_arithmetic R141). -/
theorem daaHigh_addend (a : Byte) (f : Flags) :
    (if (a.toNat + daaAddend a f) % 256 / 16 > 9 ∨ f.cy = true ∨ 256 ≤ a.toNat + daaAddend a f then 96 else 0) =
      if daaHigh a f then 96 else 0 := by
  simp only [daaHigh, decide_eq_true_eq]

/-- Settles O43: the statement's two addends are `daaAddend` and the 60H that `daaHigh` asks for. -/
theorem decimalAdjustResult : Obligations.DecimalAdjustResult := by
  rintro s _ low high rfl hlow hhigh
  obtain rfl : low = daaAddend s.regs.a s.flags := hlow
  rw [daaHigh_addend] at hhigh
  obtain ⟨hr, hcy, hac, hzsp⟩ := decimalAdjust_eq s.regs.a s.flags
  refine ⟨⟨rfl, fun _ => ⟨rfl, rfl⟩⟩, accumulates_of_exec rfl (exec_daa s) ⟨?_, ?_, hac, hzsp⟩⟩
  · rw [hhigh]
    exact hr
  · rw [hhigh]
    refine hcy.trans ?_
    cases daaHigh s.regs.a s.flags <;> rfl

/-! ### Decimal addition -/

theorem bitValue_decide (p : Prop) [Decidable p] : bitValue (decide p) = if p then 1 else 0 := by
  simp only [bitValue, decide_eq_true_eq]

/-- After an addition of decimal digits, step 1 of DAA adds 6 exactly where the low digits come to 10 or more. -/
theorem daaAddend_of_isSum {a v r : Byte} {cin : Bool} {f : Flags} (ha : isBcd a) (hv : isBcd v)
    (h : IsSum a v cin r f) : daaAddend r f = if 10 ≤ a.toNat % 16 + v.toNat % 16 + bitValue cin then 6 else 0 := by
  have hc := bitValue_le cin
  obtain ⟨-, ha⟩ := ha
  obtain ⟨-, hv⟩ := hv
  unfold daaAddend
  simp only [h.result, h.ac, decide_eq_true_eq]
  exact if_congr (by omega) rfl rfl

/-- After an addition of decimal digits, step 2 of DAA adds exactly where the decimal sum is 100 or more. -/
theorem daaHigh_of_isSum {a v r : Byte} {cin : Bool} {f : Flags} (ha : isBcd a) (hv : isBcd v)
    (h : IsSum a v cin r f) : daaHigh r f = decide (100 ≤ bcdValue a + bcdValue v + bitValue cin) := by
  have hc := bitValue_le cin
  obtain ⟨ha1, ha0⟩ := ha
  obtain ⟨hv1, hv0⟩ := hv
  unfold daaHigh bcdValue
  simp only [daaAddend_of_isSum ⟨ha1, ha0⟩ ⟨hv1, hv0⟩ h, h.result, h.cy, decide_eq_true_eq]
  refine decide_eq_decide.mpr ?_
  split <;> omega

/-- After an addition of decimal digits, DAA corrects the low digit by 6 and, where there is a decimal carry, adds 60H, which
wraps: 100H - 60H = 160 goes from the byte into CY. -/
theorem decimalAdjust_toNat_of_isSum {a v r : Byte} {cin : Bool} {f : Flags} (ha : isBcd a) (hv : isBcd v)
    (h : IsSum a v cin r f) :
    (decimalAdjust r f).1.toNat + (if 100 ≤ bcdValue a + bcdValue v + bitValue cin then 160 else 0) =
      a.toNat + v.toNat + bitValue cin + if 10 ≤ a.toNat % 16 + v.toNat % 16 + bitValue cin then 6 else 0 := by
  have hc := bitValue_le cin
  obtain ⟨hr, -, -, -⟩ := decimalAdjust_eq r f
  simp only [daaAddend_of_isSum ha hv h, daaHigh_of_isSum ha hv h, h.result, decide_eq_true_eq] at hr
  rw [hr]
  obtain ⟨ha1, ha0⟩ := ha
  obtain ⟨hv1, hv0⟩ := hv
  unfold bcdValue
  split <;> split <;> omega

/-- DAA turns the binary sum of two decimal bytes into their decimal sum (42_arithmetic R141). -/
theorem decimalAdjust_of_isSum {a v r : Byte} {cin : Bool} {f : Flags} (ha : isBcd a) (hv : isBcd v)
    (h : IsSum a v cin r f) :
    isBcd (decimalAdjust r f).1 ∧
      bcdValue (decimalAdjust r f).1 + 100 * bitValue (decimalAdjust r f).2.cy =
        bcdValue a + bcdValue v + bitValue cin := by
  have hc := bitValue_le cin
  have hr := decimalAdjust_toNat_of_isSum ha hv h
  obtain ⟨-, hcy, -, -⟩ := decimalAdjust_eq r f
  rw [hcy, daaHigh_of_isSum ha hv h, bitValue_decide]
  obtain ⟨ha1, ha0⟩ := ha
  obtain ⟨hv1, hv0⟩ := hv
  unfold isBcd
  by_cases hcarry : 100 ≤ bcdValue a + bcdValue v + bitValue cin
  · rw [if_pos hcarry] at hr ⊢
    unfold bcdValue at *
    split at hr <;> omega
  · rw [if_neg hcarry] at hr ⊢
    unfold bcdValue at *
    split at hr <;> omega

/-- Settles O44: ACI leaves the binary sum and its flags, which is what `decimalAdjust_of_isSum` asks for. -/
theorem decimalAddition : Obligations.DecimalAddition := fun s v ha hv =>
  ⟨_, _, exec_aci v s, exec_daa _, decimalAdjust_of_isSum ha hv (add8_isSum s.regs.a v s.flags.cy s.flags)⟩

end Sys2Proof.Machine

/-! PROOF. The logical group (spec 43_logical.md rules R150 to R169): the Boolean operations bit by bit, the comparison as a
subtraction whose result is dropped, the rotates as numbers. -/

namespace Sys2Proof.Machine

/-! ### Boolean operations -/

/-- The operation on one bit. -/
def LogicOp.onBits : LogicOp → Bool → Bool → Bool
  | .ana => and
  | .xra => xor
  | .ora => or

theorem logicResult_onBits (op : LogicOp) (a b : Byte) (k : Nat) :
    (logicResult op a b).getLsbD k = op.onBits (a.getLsbD k) (b.getLsbD k) := by
  rw [logicResult_bit]
  cases op <;> rfl

/-- `logicResult` with its flags is the Boolean result of 43_logical R150. -/
theorem logicResult_isBoolean (mode : AnaAC) (op : LogicOp) (a b : Byte) (f : Flags) :
    IsBoolean op.onBits (logicAC mode op a b) a b (logicResult op a b) (setflagsLogic mode op a b f) where
  result := fun k _ => logicResult_onBits op a b k
  cy := setflagsLogic_cy mode op a b f
  ac := setflagsLogic_ac mode op a b f
  zsp := setflagsLogic_zspOf mode op a b f

/-- AC after AND, in either setting of ANA_AC (decision D12). -/
theorem logicAC_ana (mode : AnaAC) (a b : Byte) :
    logicAC mode .ana a b = (decide (mode = .silicon) && (a.getLsbD 3 || b.getLsbD 3)) := by
  cases mode <;> rfl

theorem accumulates_boolean {i : Instr} {s u : State} {op : LogicOp} {v : Byte} (hu : u.regs = s.regs)
    (hp : u.platform = s.platform) (hx : exec i s = .next (u.logicA op v)) :
    Accumulates i s u (IsBoolean op.onBits (logicAC s.platform.anaAC op s.regs.a v) s.regs.a v) := by
  refine accumulates_of_exec hu hx ?_
  rw [State.reg_eq, hu, hp]
  exact logicResult_isBoolean s.platform.anaAC op s.regs.a v u.flags

/-- The M forms read one byte at HL first (43_logical R152, R155, R158). -/
theorem accumulates_booleanM {i : Instr} {s : State} {op : LogicOp} (hq : s.holds = [])
    (hx : exec i s = .next (s.readM.2.logicA op s.readM.1)) :
    Accumulates i s (s.readCycle .memRead s.hl)
      (IsBoolean op.onBits (logicAC s.platform.anaAC op s.regs.a (s.readValue s.hl)) s.regs.a (s.readValue s.hl)) := by
  rw [State.readM_quiet hq] at hx
  exact accumulates_boolean rfl rfl hx

/-- Settles O45: the nine forms differ only in the operation and in where the operand comes from; the statement's AC after AND
is `logicAC`. -/
theorem booleanResult : Obligations.BooleanResult := by
  intro s anaAc hac
  obtain rfl : anaAc = logicAC s.platform.anaAC .ana s.regs.a :=
    funext fun v => (hac v).trans (logicAC_ana s.platform.anaAC s.regs.a v).symm
  refine ⟨fun r => ⟨⟨rfl, fun _ => ⟨rfl, rfl⟩⟩, ?anaR⟩, fun data => ⟨⟨rfl, fun _ => ⟨rfl, rfl⟩⟩, ?ani⟩,
    fun r => ⟨⟨rfl, fun _ => ⟨rfl, rfl⟩⟩, ?xraR⟩, fun data => ⟨⟨rfl, fun _ => ⟨rfl, rfl⟩⟩, ?xri⟩,
    fun r => ⟨⟨rfl, fun _ => ⟨rfl, rfl⟩⟩, ?oraR⟩, fun data => ⟨⟨rfl, fun _ => ⟨rfl, rfl⟩⟩, ?ori⟩,
    ⟨rfl, fun _ => ⟨rfl, rfl⟩⟩, ⟨rfl, fun _ => ⟨rfl, rfl⟩⟩, ⟨rfl, fun _ => ⟨rfl, rfl⟩⟩, ?memory⟩
  case anaR => exact accumulates_boolean rfl rfl (exec_anaR r s)
  case ani => exact accumulates_boolean rfl rfl (exec_ani data s)
  case xraR => exact accumulates_boolean rfl rfl (exec_xraR r s)
  case xri => exact accumulates_boolean rfl rfl (exec_xri data s)
  case oraR => exact accumulates_boolean rfl rfl (exec_oraR r s)
  case ori => exact accumulates_boolean rfl rfl (exec_ori data s)
  case memory =>
    rintro hq _ rfl
    exact ⟨accumulates_booleanM hq (exec_anaM s), accumulates_booleanM hq (exec_xraM s),
      accumulates_booleanM hq (exec_oraM s)⟩

/-! ### Comparison -/

/-- A difference without borrow is 0 exactly where the operands are equal (43_logical R160). -/
theorem IsDifference.z_eq {a v r : Byte} {f : Flags} (h : IsDifference a v false r f) : f.z = decide (a = v) := by
  have hr := h.result
  have hlt := r.isLt
  have ha := a.isLt
  have hv := v.isLt
  rw [bitValue_false] at hr
  rw [h.zsp.z]
  exact decide_eq_decide.mpr (by rw [← BitVec.toNat_inj]; omega)

/-- An instruction that writes the flags of A - v and no register, after reads that leave the registers alone. -/
theorem compares_of_exec {i : Instr} {s u : State} {v : Byte} (hu : u.regs = s.regs)
    (hx : exec i s = .next (u.compareA v false)) :
    ∃ x f, exec i s = .next { u with flags := f } ∧ IsDifference s.regs.a v false x f ∧
      f.z = decide (s.regs.a = v) ∧ f.cy = decide (s.regs.a.toNat < v.toNat) := by
  have hd := sub8_isDifference u.regs.a v false u.flags
  rw [← hu]
  exact ⟨_, _, hx, hd, hd.z_eq, hd.cy⟩

/-- Settles O46: the three forms differ only in where the operand comes from. -/
theorem compareResult : Obligations.CompareResult := by
  refine fun s => ⟨fun r => ⟨⟨rfl, fun _ => ⟨rfl, rfl⟩⟩, ?cmpR⟩, fun data => ⟨⟨rfl, fun _ => ⟨rfl, rfl⟩⟩, ?cpi⟩,
    ⟨rfl, fun _ => ⟨rfl, rfl⟩⟩, ?cmpM⟩
  case cmpR => exact compares_of_exec rfl (exec_cmpR r s)
  case cpi => exact compares_of_exec rfl (exec_cpi data s)
  case cmpM =>
    rintro hq _ rfl
    refine compares_of_exec rfl ?_
    rw [exec_cmpM, State.readM_quiet hq]
    rfl

/-! ### Rotates -/

/-- A byte moved up by one place, with `b` coming in at the low end (43_logical R163, R165). -/
theorem shiftInLow_toNat (a : Byte) (b : BitVec 1) :
    (a.extractLsb' 0 7 ++ b : Byte).toNat = a.toNat * 2 % 256 + b.toNat := by
  rw [BitVec.toNat_append, ← Nat.shiftLeft_add_eq_or_of_lt b.isLt, BitVec.extractLsb'_toNat, Nat.shiftRight_zero,
    Nat.shiftLeft_eq]
  omega

/-- A byte moved down by one place, with `b` coming in at the high end (43_logical R164, R166). -/
theorem shiftInHigh_toNat (a : Byte) (b : BitVec 1) :
    (b ++ a.extractLsb' 1 7 : Byte).toNat = b.toNat * 128 + a.toNat / 2 := by
  have ha := a.isLt
  rw [BitVec.toNat_append, ← Nat.shiftLeft_add_eq_or_of_lt (a.extractLsb' 1 7).isLt, BitVec.extractLsb'_toNat,
    Nat.shiftRight_eq_div_pow, Nat.shiftLeft_eq]
  omega

theorem highBit_toNat (a : Byte) : (a.extractLsb' 7 1).toNat = a.toNat / 128 := by
  have ha := a.isLt
  rw [BitVec.extractLsb'_toNat, Nat.shiftRight_eq_div_pow]
  omega

theorem lowBit_toNat (a : Byte) : (a.extractLsb' 0 1).toNat = a.toNat % 2 := by
  rw [BitVec.extractLsb'_toNat, Nat.shiftRight_zero]

theorem ofBool_toNat (b : Bool) : (BitVec.ofBool b).toNat = bitValue b := by cases b <;> rfl

theorem lsb_eq (a : Byte) : a.getLsbD 0 = decide (a.toNat % 2 = 1) := Nat.testBit_zero a.toNat

/-- A rotate writes A and CY, each given as a number. -/
theorem accumulates_rotation {i : Instr} {s : State} {r : Byte} {b c : Bool} {n : Nat}
    (hx : exec i s = .next (s.rotateA r b)) (hr : r.toNat = n) (hb : b = c) :
    Accumulates i s s fun r f => r.toNat = n ∧ f = { s.flags with cy := c } :=
  accumulates_of_exec rfl hx ⟨hr, by rw [hb]⟩

/-- Settles O47: each rotate is a move by one place, with the bit that comes in and the bit that goes out. -/
theorem rotateResult : Obligations.RotateResult := by
  rintro s _ rfl
  refine ⟨⟨rfl, fun _ => ⟨rfl, rfl⟩⟩, ⟨rfl, fun _ => ⟨rfl, rfl⟩⟩, ⟨rfl, fun _ => ⟨rfl, rfl⟩⟩, ⟨rfl, fun _ => ⟨rfl, rfl⟩⟩,
    accumulates_rotation (exec_rlc s) ?rlc (msb_eq _), accumulates_rotation (exec_rrc s) ?rrc (lsb_eq _),
    accumulates_rotation (exec_ral s) ?ral (msb_eq _), accumulates_rotation (exec_rar s) ?rar (lsb_eq _)⟩
  case rlc =>
    rw [shiftInLow_toNat, highBit_toNat]
    rfl
  case rrc =>
    rw [shiftInHigh_toNat, lowBit_toNat]
    rfl
  case ral =>
    rw [shiftInLow_toNat, ofBool_toNat]
    rfl
  case rar =>
    rw [shiftInHigh_toNat, ofBool_toNat]
    rfl

/-! ### Complement and set carry -/

/-- Settles O48: CMA leaves the flags it found, CMC and STC write one of them. -/
theorem complementResult : Obligations.ComplementResult := fun s =>
  ⟨⟨rfl, fun _ => ⟨rfl, rfl⟩⟩, ⟨rfl, fun _ => ⟨rfl, rfl⟩⟩, ⟨rfl, fun _ => ⟨rfl, rfl⟩⟩,
    accumulates_of_exec (f := s.flags) rfl (exec_cma s) ⟨BitVec.toNat_not, rfl⟩, exec_cmc s, exec_stc s⟩

end Sys2Proof.Machine

/-! PROOF. The branch group (spec 44_branch.md rules R180 to R188) and the stack it uses: a condition as the value of one flag,
what a call and a return come to where no hold is due, and that a pop undoes the push before it. -/

namespace Sys2Proof.Machine

/-! ### Conditions -/

/-- The value of its flag for which a condition holds (44_branch R180). -/
def condValue : Cond → Bool
  | .nz | .nc | .po | .p => false
  | .z | .c | .pe | .m => true

/-- A condition examines one flag (44_branch R180). -/
theorem condHolds_iff (f : Flags) (cond : Cond) : condHolds f cond = true ↔ f.get (condFlag cond) = condValue cond := by
  cases cond
  case nz | nc | po | p => exact iff_of_eq (Bool.not_eq_true' _)
  case z | c | pe | m => exact Iff.rfl

/-! ### Jumps -/

theorem State.jumpIf_eq (s : State) (cond : Cond) (target : Word) :
    s.jumpIf cond target =
      { s with pc := if s.flags.get (condFlag cond) = condValue cond then target else s.pc } := by
  simp only [State.jumpIf, condHolds_iff]
  split <;> rfl

/-- A conditional jump: its three bytes, its timing, and PC loaded exactly where its flag has the value it asks for
(44_branch R182). -/
theorem conditionalJump_of_exec {i : Instr} {s : State} {cond : Cond} {op b2 b3 : Byte}
    (he : encode i = threeBytes op (joinBytes b3 b2)) (ht : ∀ f, cyclesOf i f = 3 ∧ statesOf i f = 10)
    (hx : exec i s = .next (s.jumpIf cond (joinBytes b3 b2))) :
    hasFormat i [op, b2, b3] 3 10 ∧
      exec i s = .next { s with
        pc := if s.flags.get (condFlag cond) = condValue cond then joinBytes b3 b2 else s.pc } :=
  ⟨hasFormat_threeBytes he ht, by rw [hx, State.jumpIf_eq]⟩

/-- Settles O49: JMP loads PC, and the eight conditional jumps differ only in their condition. -/
theorem jumpResult : Obligations.JumpResult := by
  rintro s b2 b3 _ rfl
  refine ⟨⟨hasFormat_threeBytes rfl fun _ => ⟨rfl, rfl⟩, exec_jmp _ s⟩, ?jnz, ?jz, ?jnc, ?jc, ?jpo, ?jpe, ?jp, ?jm⟩
  case jnz => exact conditionalJump_of_exec rfl (fun _ => ⟨rfl, rfl⟩) (exec_jnz _ s)
  case jz => exact conditionalJump_of_exec rfl (fun _ => ⟨rfl, rfl⟩) (exec_jz _ s)
  case jnc => exact conditionalJump_of_exec rfl (fun _ => ⟨rfl, rfl⟩) (exec_jnc _ s)
  case jc => exact conditionalJump_of_exec rfl (fun _ => ⟨rfl, rfl⟩) (exec_jc _ s)
  case jpo => exact conditionalJump_of_exec rfl (fun _ => ⟨rfl, rfl⟩) (exec_jpo _ s)
  case jpe => exact conditionalJump_of_exec rfl (fun _ => ⟨rfl, rfl⟩) (exec_jpe _ s)
  case jp => exact conditionalJump_of_exec rfl (fun _ => ⟨rfl, rfl⟩) (exec_jp _ s)
  case jm => exact conditionalJump_of_exec rfl (fun _ => ⟨rfl, rfl⟩) (exec_jm _ s)

/-- Settles O52, by the word that H and L make. -/
theorem hlToPointerResult : Obligations.HlToPointerResult := by
  refine fun s => ⟨⟨rfl, fun _ => ⟨rfl, rfl⟩⟩, ?pchl, ⟨rfl, fun _ => ⟨rfl, rfl⟩⟩, ?sphl⟩
  case pchl => rw [exec_pchl, State.hl_eq, State.setPc]
  case sphl => rw [exec_sphl, State.hl_eq, State.setSp]

/-! ### Calls -/

/-- The target of RST n as the word 8 n (44_branch R187). -/
theorem restartAddress_eq_ofNat (n : BitVec 3) : restartAddress n = BitVec.ofNat 16 (8 * n.toNat) := by
  have hn := n.isLt
  apply BitVec.eq_of_toNat_eq
  rw [restartAddress_toNat, BitVec.toNat_ofNat]
  omega

/-- An instruction that is a call pushes PC and goes to the target (44_branch R183). -/
theorem pushesAndGoes_of_exec {i : Instr} {s : State} {target : Word} (hq : s.holds = [])
    (hx : exec i s = .next (s.callTo target)) : PushesAndGoes i s s.pc target :=
  ⟨s.memAfterPush s.pc, by rw [hx, State.callTo_quiet hq], s.storesAt_memAfterPush s.pc⟩

/-- A conditional call: its timing, its three bytes, and a call exactly where its flag has the value it asks for
(44_branch R184). -/
theorem conditionalCall_of_exec {i : Instr} {s : State} {cond : Cond} {op b2 b3 : Byte} (hq : s.holds = [])
    (hc : ∀ f, cyclesOf i f = (callCycles (condHolds f cond)).length + 3)
    (hs : ∀ f, statesOf i f = callStates (condHolds f cond)) (he : encode i = threeBytes op (joinBytes b3 b2))
    (hx : exec i s = .next (s.callIf cond (joinBytes b3 b2))) :
    hasConditionalTiming i cond 3 11 5 17 ∧ encode i = [op, b2, b3] ∧
      if s.flags.get (condFlag cond) = condValue cond then PushesAndGoes i s s.pc (joinBytes b3 b2)
      else exec i s = .next s := by
  refine ⟨fun f => ⟨?cycles, hs f⟩, by rw [he, threeBytes, lo_joinBytes, hi_joinBytes], ?effect⟩
  case cycles =>
    rw [hc, callCycles]
    split <;> rfl
  case effect =>
    simp only [State.callIf, condHolds_iff] at hx
    split
    · next htaken => exact pushesAndGoes_of_exec hq (by rw [hx, if_pos htaken])
    · next hnot => rw [hx, if_neg hnot]

/-- Settles O50: CALL, RST and the conditional calls are one operation, `State.callTo`, taken or not. -/
theorem callResult : Obligations.CallResult := by
  refine fun s hq => ⟨fun n => ⟨⟨rfl, fun _ => ⟨rfl, rfl⟩⟩, ?rst⟩, ?_⟩
  case rst => exact restartAddress_eq_ofNat n ▸ pushesAndGoes_of_exec hq (exec_rst n s)
  rintro b2 b3 _ rfl
  refine ⟨⟨hasFormat_threeBytes rfl fun _ => ⟨rfl, rfl⟩, pushesAndGoes_of_exec hq (exec_call _ s)⟩,
    ?cnz, ?cz, ?cnc, ?cc, ?cpo, ?cpe, ?cp, ?cm⟩
  case cnz => exact conditionalCall_of_exec hq (fun _ => rfl) (fun _ => rfl) rfl (exec_cnz _ s)
  case cz => exact conditionalCall_of_exec hq (fun _ => rfl) (fun _ => rfl) rfl (exec_cz _ s)
  case cnc => exact conditionalCall_of_exec hq (fun _ => rfl) (fun _ => rfl) rfl (exec_cnc _ s)
  case cc => exact conditionalCall_of_exec hq (fun _ => rfl) (fun _ => rfl) rfl (exec_cc _ s)
  case cpo => exact conditionalCall_of_exec hq (fun _ => rfl) (fun _ => rfl) rfl (exec_cpo _ s)
  case cpe => exact conditionalCall_of_exec hq (fun _ => rfl) (fun _ => rfl) rfl (exec_cpe _ s)
  case cp => exact conditionalCall_of_exec hq (fun _ => rfl) (fun _ => rfl) rfl (exec_cp _ s)
  case cm => exact conditionalCall_of_exec hq (fun _ => rfl) (fun _ => rfl) rfl (exec_cm _ s)

/-! ### Returns -/

/-- An instruction that is a return pops PC (44_branch R185). -/
theorem returns_of_exec {i : Instr} {s : State} (hq : s.holds = []) (hx : exec i s = .next s.returnFromStack) :
    Returns i s := by
  rw [Returns, hx, State.returnFromStack_quiet hq]

/-- A conditional return: its timing, its byte, and a return exactly where its flag has the value it asks for
(44_branch R186). -/
theorem conditionalReturn_of_exec {i : Instr} {s : State} {cond : Cond} {op : Byte} (hq : s.holds = [])
    (hc : ∀ f, cyclesOf i f = (returnCycles (condHolds f cond)).length + 1)
    (hs : ∀ f, statesOf i f = returnStates (condHolds f cond)) (he : encode i = [op])
    (hx : exec i s = .next (s.returnIf cond)) :
    hasConditionalTiming i cond 1 5 3 11 ∧ encode i = [op] ∧
      if s.flags.get (condFlag cond) = condValue cond then Returns i s else exec i s = .next s := by
  refine ⟨fun f => ⟨?cycles, hs f⟩, he, ?effect⟩
  case cycles =>
    rw [hc, returnCycles]
    split <;> rfl
  case effect =>
    simp only [State.returnIf, condHolds_iff] at hx
    split
    · next htaken => exact returns_of_exec hq (by rw [hx, if_pos htaken])
    · next hnot => rw [hx, if_neg hnot]

/-- Settles O51: RET and the conditional returns are one operation, `State.returnFromStack`, taken or not. -/
theorem returnResult : Obligations.ReturnResult := by
  refine fun s hq => ⟨⟨⟨rfl, fun _ => ⟨rfl, rfl⟩⟩, returns_of_exec hq (exec_ret s)⟩,
    ?rnz, ?rz, ?rnc, ?rc, ?rpo, ?rpe, ?rp, ?rm⟩
  case rnz => exact conditionalReturn_of_exec hq (fun _ => rfl) (fun _ => rfl) rfl (exec_rnz s)
  case rz => exact conditionalReturn_of_exec hq (fun _ => rfl) (fun _ => rfl) rfl (exec_rz s)
  case rnc => exact conditionalReturn_of_exec hq (fun _ => rfl) (fun _ => rfl) rfl (exec_rnc s)
  case rc => exact conditionalReturn_of_exec hq (fun _ => rfl) (fun _ => rfl) rfl (exec_rc s)
  case rpo => exact conditionalReturn_of_exec hq (fun _ => rfl) (fun _ => rfl) rfl (exec_rpo s)
  case rpe => exact conditionalReturn_of_exec hq (fun _ => rfl) (fun _ => rfl) rfl (exec_rpe s)
  case rp => exact conditionalReturn_of_exec hq (fun _ => rfl) (fun _ => rfl) rfl (exec_rp s)
  case rm => exact conditionalReturn_of_exec hq (fun _ => rfl) (fun _ => rfl) rfl (exec_rm s)

/-! ### A push and the pop after it -/

/-- On a RAM stack a pop gives back the word pushed and SP, whatever PC, the registers and the flags became in between
(45 R200, R202; the wrap of SP is decision D4). -/
theorem State.popWord_pushWord {s : State} (hq : s.holds = []) (hw : s.mem.wf = true) (high : s.isRam (s.sp - 1))
    (low : s.isRam (s.sp - 2)) (w p : Word) (g : Regs) (f : Flags) :
    (State.popWord { s.pushWord w with pc := p, regs := g, flags := f }).1 = w ∧
      (State.popWord { s.pushWord w with pc := p, regs := g, flags := f }).2.sp = s.sp := by
  have hnext : s.sp - 2 + 1 = s.sp - 1 := by bv_omega
  have hback : s.sp - 2 + 2 = s.sp := BitVec.sub_add_cancel _ _
  rw [State.pushWord_quiet hq]
  dsimp only
  rw [State.popWord_quiet (by exact hq) (.inl (by exact low)) (.inl (by rw [hnext]; exact high))]
  refine ⟨?word, hback⟩
  simp only [State.byteAt, hnext, State.memAfterPush_high w hw high, State.memAfterPush_low w hw low, joinBytes_hi_lo]

/-- On a RAM stack a return after a call comes back to the PC pushed (44_branch R183, R185). -/
theorem State.returnFromStack_callTo {s : State} (hq : s.holds = []) (hw : s.mem.wf = true) (high : s.isRam (s.sp - 1))
    (low : s.isRam (s.sp - 2)) (target : Word) :
    (s.callTo target).returnFromStack.pc = s.pc ∧ (s.callTo target).returnFromStack.sp = s.sp ∧
      (s.callTo target).returnFromStack.regs = s.regs ∧ (s.callTo target).returnFromStack.flags = s.flags := by
  obtain ⟨hpc, hsp⟩ := State.popWord_pushWord hq hw high low s.pc target (s.pushWord s.pc).regs (s.pushWord s.pc).flags
  refine ⟨hpc, hsp, ?regs, ?flags⟩
  case regs => rw [State.returnFromStack_regs, State.callTo_regs]
  case flags => rw [State.returnFromStack_flags, State.callTo_flags]

/-- Settles O59, by the pop that undoes the push; the flags come back through the flag byte. -/
theorem stackRoundTrip : Obligations.StackRoundTrip := by
  intro s hq hw high low
  refine ⟨fun addr => ?call, fun n => ?rst, fun g f => ?psw⟩
  case call =>
    exact ⟨_, _, exec_call addr s, rfl, exec_ret _, State.returnFromStack_callTo hq hw high low addr⟩
  case rst =>
    exact ⟨_, _, exec_rst n s, restartAddress_toNat n, exec_ret _,
      State.returnFromStack_callTo hq hw high low (restartAddress n)⟩
  case psw =>
    obtain ⟨hword, hsp⟩ :=
      State.popWord_pushWord hq hw high low (joinBytes (s.reg .a) (flagByte s.flags)) (s.pushWord _).pc g f
    refine ⟨_, _, exec_pushPsw s, exec_popPsw _, hsp, ?flags, ?regs⟩
    case flags => rw [State.setFlags_flags, hword, lo_joinBytes, flagsOfByte_flagByte]
    case regs =>
      rw [State.setFlags_regs, State.setReg_regs, State.popWord_regs, hword, hi_joinBytes]
      rfl

end Sys2Proof.Machine

/-! PROOF. The stack, I/O and machine control group (spec 45_stack_io_control.md rules R200 to R213): what a push, a pop and an
exchange come to where no hold is due, what reaches a port, and how EI and HLT act on the steps after them. -/

namespace Sys2Proof.Machine

/-! ### The end of the halt state -/

/-- Settles O17, by the five kinds of step: RESET and an accepted interrupt are as named, a hold and an idle boundary leave
`halted` set, and no instruction is fetched while it is set. -/
theorem haltEndsByResetOrInterrupt : Obligations.HaltEndsByResetOrInterrupt := by
  intro s t hs h ht
  rcases step_next_cases h with ⟨hr, -⟩ | ⟨-, -, rfl⟩ | ⟨n, i, u, v, ha, -, -, -⟩ | ⟨-, -, -, rfl⟩ | ⟨n, v, hf, -, -⟩
  case inl => exact .inl hr
  case inr.inl =>
    have hkept : (s.consumeEnv.holdTurn s.env).halted = s.halted := State.dmaAccesses_halted _ _
    rw [hkept, hs] at ht
    cases ht
  case inr.inr.inl =>
    obtain ⟨hu, hi, he, -⟩ := ha
    exact .inr ⟨hu, hi, he⟩
  case inr.inr.inr.inl =>
    have hkept : (s.consumeEnv.setHlda false).halted = s.halted := rfl
    rw [hkept, hs] at ht
    cases ht
  case inr.inr.inr.inr =>
    obtain ⟨-, -, hn, -⟩ := hf
    rw [hs] at hn
    cases hn

/-! ### The pending enable -/

theorem State.atFetch_eiPending (s : State) : s.atFetch.fetchInstr.2.eiPending = false := by
  rw [State.fetchInstr_eiPending]
  rfl

/-- A fetching step executes the instruction fetched, with the pending enable that the boundary cleared (60_exceptions R252
part 5). -/
theorem step_of_fetchesNext {s : State} {n : Nat} (h : s.fetchesNext n) :
    step s = finish s.nextInstr s.atFetch.fetchInstr.2.flags s.eiPending n (exec s.nextInstr s.atFetch.fetchInstr.2) :=
  step_of_boundary_run (boundary_fetch h)

/-- After an instruction other than DI, INTE is set where an enable was pending (60_exceptions R252 part 5). -/
theorem complete_inte_of_ne_di {i : Instr} (h : i ≠ .di) (f : Flags) (enable : Bool) (n : Nat) (u : State) :
    (complete i f enable n u).inte = (u.inte || enable) := by
  rw [complete_eq, decide_eq_true h, Bool.and_true, Bool.or_comm]

/-- Settles O19: `complete` sets INTE by the enable pending before the fetch, and only EI makes another pending. -/
theorem eiDelaysOneInstruction : Obligations.EiDelaysOneInstruction := by
  intro s n hf
  have hstep := step_of_fetchesNext hf
  refine ⟨fun hei => ?ei, fun hdi => ?di, fun t hei hdi h => ?other⟩
  case ei =>
    rw [hei, exec_ei, finish] at hstep
    refine ⟨_, hstep, ?pending, ?inte⟩
    case pending => rw [complete_eiPending, State.setEiPending_eiPending]
    case inte => rw [complete_inte_of_ne_di (by decide), State.setEiPending_inte, State.atFetch_inte]
  case di =>
    rw [hdi, exec_di, finish] at hstep
    refine ⟨_, hstep, ?pending, ?inte⟩
    case pending => rw [complete_eiPending, State.setEiPending_eiPending]
    case inte =>
      rw [complete_inte, State.setEiPending_inte, State.setInte_inte, isDi, Bool.not_true, Bool.and_false, Bool.or_false]
  case other =>
    obtain ⟨v, hv, rfl⟩ := finish_next (hstep.symm.trans h)
    obtain ⟨hinte, hpending, -⟩ := exec_keeps_control hv
    constructor
    · rw [complete_eiPending, hpending hei hdi, State.atFetch_eiPending]
    · rw [complete_inte_of_ne_di hdi, hinte hdi, State.atFetch_inte]

/-! ### Pushes -/

/-- An instruction that is a push stores the two bytes and stays at PC (R200). -/
theorem pushesAndStays_of_exec {i : Instr} {s : State} {w : Word} (hq : s.holds = [])
    (hx : exec i s = .next (s.pushWord w)) : PushesAndGoes i s w s.pc :=
  ⟨s.memAfterPush w, by rw [hx, State.pushWord_quiet hq], s.storesAt_memAfterPush w⟩

/-- The flag byte S Z 0 AC 0 P 1 CY as a number (10_state R20). -/
theorem flagByte_toNat (f : Flags) :
    (flagByte f).toNat =
      128 * bitValue f.s + 64 * bitValue f.z + 16 * bitValue f.ac + 4 * bitValue f.p + 2 + bitValue f.cy := by
  obtain ⟨z, s, p, cy, ac⟩ := f
  revert z s p cy ac
  decide

/-- Settles O53: the four forms differ only in the word pushed, and the flag byte is the one with that number. -/
theorem pushResult : Obligations.PushResult := by
  refine fun s hq => ⟨⟨rfl, fun _ => ⟨rfl, rfl⟩⟩, ?bc, ⟨rfl, fun _ => ⟨rfl, rfl⟩⟩, ?de, ⟨rfl, fun _ => ⟨rfl, rfl⟩⟩, ?hl,
    ⟨rfl, fun _ => ⟨rfl, rfl⟩⟩, fun v hv => ?psw⟩
  case bc => exact pushesAndStays_of_exec hq (exec_push .bc s)
  case de => exact pushesAndStays_of_exec hq (exec_push .de s)
  case hl => exact pushesAndStays_of_exec hq (exec_push .hl s)
  case psw =>
    obtain rfl : v = flagByte s.flags := BitVec.eq_of_toNat_eq (hv.trans (flagByte_toNat s.flags).symm)
    exact pushesAndStays_of_exec hq (exec_pushPsw s)

/-! ### Pops -/

/-- The flags POP PSW loads, from the byte as a number (R203). -/
theorem flagsOfByte_eq (v : Byte) :
    flagsOfByte v =
      { cy := decide (v.toNat % 2 = 1)
        p := decide (v.toNat / 4 % 2 = 1)
        ac := decide (v.toNat / 16 % 2 = 1)
        z := decide (v.toNat / 64 % 2 = 1)
        s := decide (v.toNat / 128 % 2 = 1) } := by
  simp only [flagsOfByte, BitVec.getLsbD, Nat.testBit_eq_decide_div_mod_eq, Nat.reducePow, Nat.div_one]

/-- A pop of a register pair, in the terms of the two bytes read (R202). -/
theorem exec_pop_quiet {s : State} (hq : s.holds = []) (rp : StackPair) :
    exec (.pop rp) s =
      .next (State.setPair { s.popReads with sp := s.sp + 2 } (stackPair rp) (joinBytes s.popHigh s.popLow)) := by
  rw [exec_pop, State.popWord_readCycle hq]

/-- Settles O54: the four forms read the same two bytes and differ only in where those go. -/
theorem popResult : Obligations.PopResult := by
  refine fun s hq => ⟨⟨rfl, fun _ => ⟨rfl, rfl⟩⟩, ?bc, ⟨rfl, fun _ => ⟨rfl, rfl⟩⟩, ?de, ⟨rfl, fun _ => ⟨rfl, rfl⟩⟩, ?hl,
    ⟨rfl, fun _ => ⟨rfl, rfl⟩⟩, ?psw⟩
  case bc => rw [exec_pop_quiet hq, stackPair, State.setPair_bc_joinBytes]; rfl
  case de => rw [exec_pop_quiet hq, stackPair, State.setPair_de_joinBytes]; rfl
  case hl => rw [exec_pop_quiet hq, stackPair, State.setPair_hl_joinBytes]; rfl
  case psw =>
    rw [exec_popPsw, State.popWord_readCycle hq]
    dsimp only
    rw [hi_joinBytes, lo_joinBytes, flagsOfByte_eq]
    rfl

/-! ### The exchange with the top of the stack -/

/-- Settles O55: the reads change neither memory nor the registers, so H and L are stored as they were, at two addresses that
differ even where SP + 1 wraps. -/
theorem exchangeStackResult : Obligations.ExchangeStackResult := by
  refine fun s hq => ⟨⟨rfl, fun _ => ⟨rfl, rfl⟩⟩, s.memAfterTwoWrites (s.sp + 1) s.regs.h s.sp s.regs.l, ?effect,
    s.storesAt_memAfterTwoWrites _ _ (word_succ_ne s.sp).symm⟩
  rw [exec_xthl, State.memRead_readCycle hq]
  dsimp only
  rw [State.memRead_readCycle (by exact hq)]
  dsimp only
  rw [State.memWrite_memWrite_quiet (by exact hq), State.setPair_hl_joinBytes]
  rfl

/-! ### Ports -/

/-- An OUTPUT cycle is one more event of the output trace (20_memory R51). -/
theorem State.outputs_output_cycle (s : State) (port v : Byte) :
    State.outputs { s with
      trace := { kind := .output, addr := portAddress port, data := some v } :: s.trace } = s.outputs ++ [(port, v)] := by
  simp [State.outputs, BusCycle.outputEvent, portAddress, lo_joinBytes]

/-- Settles O56: each port instruction is one machine cycle. -/
theorem portResult : Obligations.PortResult := by
  refine fun s port hq => ⟨⟨rfl, fun _ => ⟨rfl, rfl⟩⟩, ?input, ⟨rfl, fun _ => ⟨rfl, rfl⟩⟩,
    _, ?output, s.outputs_output_cycle port s.regs.a, rfl⟩
  case input =>
    rw [exec_inPort, State.ioRead, State.record_quiet (by exact hq)]
    rfl
  case output =>
    rw [exec_outPort, State.ioWrite, State.record_quiet hq]
    rfl

/-! ### Machine control -/

/-- Settles O57, by what each of the four writes. -/
theorem controlResult : Obligations.ControlResult := by
  refine fun s => ⟨⟨rfl, fun _ => ⟨rfl, rfl⟩⟩, exec_ei s, ⟨rfl, fun _ => ⟨rfl, rfl⟩⟩, exec_di s,
    ⟨rfl, fun _ => ⟨rfl, rfl⟩⟩, exec_nop s, ⟨rfl, fun _ => ⟨rfl, rfl⟩⟩, fun hq => ?hlt⟩
  rw [exec_hlt, State.record_quiet hq]
  rfl

end Sys2Proof.Machine

/-! PROOF. Machine cycles and time (spec 50_machine_cycles.md rules R220 to R236): the machine cycles every shared operation
performs, from which those of an instruction and of a step are put together; the states of each cycle; what wait states
change. -/

namespace Sys2Proof.Machine

/-! ### The machine cycles performed between two states -/

/-- From `s` to `t` machine cycles of the types `kinds` were performed, oldest first, and no free value was taken back. -/
structure State.Performs (s t : State) (kinds : List CycleKind) : Prop where
  cycles : ∃ cycles : List BusCycle, t.trace = cycles.reverse ++ s.trace ∧ cycles.map BusCycle.kind = kinds
  draws : s.draws ≤ t.draws

namespace State.Performs

theorem refl (s : State) : s.Performs s [] := ⟨⟨[], rfl, rfl⟩, Nat.le_refl _⟩

theorem single {s t : State} {c : BusCycle} (h : t.trace = c :: s.trace) (hd : s.draws ≤ t.draws) :
    s.Performs t [c.kind] := ⟨⟨[c], h, rfl⟩, hd⟩

variable {s t u : State} {ks ls : List CycleKind}

theorem trans (h : s.Performs t ks) (h' : t.Performs u ls) : s.Performs u (ks ++ ls) := by
  obtain ⟨⟨cs, hcs, rfl⟩, hd⟩ := h
  obtain ⟨⟨ds, hds, rfl⟩, hd'⟩ := h'
  refine ⟨⟨cs ++ ds, ?_, List.map_append⟩, hd.trans hd'⟩
  rw [hds, hcs, List.reverse_append, List.append_assoc]

/-- What comes after the last cycle and changes neither the trace nor the draws. -/
theorem of_same (h : s.Performs t ks) (hs : u.trace = t.trace ∧ u.draws = t.draws) : s.Performs u ks := by
  obtain ⟨htrace, hdraws⟩ := hs
  exact ⟨htrace ▸ h.cycles, hdraws ▸ h.draws⟩

theorem setFlags (h : s.Performs t ks) (f : Flags) : s.Performs (t.setFlags f) ks := h.of_same ⟨rfl, rfl⟩

theorem setPair (h : s.Performs t ks) (rp : Pair) (v : Word) : s.Performs (t.setPair rp v) ks := h.of_same (by simp)

/-! ### The shared operations -/

theorem record (h : s.Performs t ks) (k : CycleKind) (a : Word) (d : Option Byte) :
    s.Performs (t.record k a d) (ks ++ [k]) :=
  h.trans (single (t.record_trace k a d) (t.record_draws k a d).ge)

theorem memRead (h : s.Performs t ks) (k : CycleKind) (a : Word) : s.Performs (t.memRead k a).2 (ks ++ [k]) :=
  h.trans (single (t.memRead_trace k a) (t.memRead_draws k a ▸ t.afterRead_draws_le a))

theorem memWrite (h : s.Performs t ks) (k : CycleKind) (a : Word) (v : Byte) :
    s.Performs (t.memWrite k a v) (ks ++ [k]) :=
  h.trans (single (t.memWrite_trace k a v) (t.memWrite_draws k a v).ge)

theorem readM (h : s.Performs t ks) : s.Performs t.readM.2 (ks ++ [.memRead]) := h.memRead .memRead t.hl

theorem writeM (h : s.Performs t ks) (v : Byte) : s.Performs (t.writeM v) (ks ++ [.memWrite]) :=
  h.memWrite .memWrite t.hl v

theorem ioRead (h : s.Performs t ks) (port : Byte) : s.Performs (t.ioRead port).2 (ks ++ [.input]) :=
  h.trans (single (t.ioRead_trace port) (t.ioRead_draws port ▸ Nat.le_succ _))

theorem ioWrite (h : s.Performs t ks) (port v : Byte) : s.Performs (t.ioWrite port v) (ks ++ [.output]) :=
  h.record .output _ _

theorem fetchByte (h : s.Performs t ks) (k : CycleKind) : s.Performs (t.fetchByte k).2 (ks ++ [k]) :=
  (h.memRead k t.pc).of_same ⟨rfl, rfl⟩

theorem fetchWord (h : s.Performs t ks) : s.Performs t.fetchWord.2 (ks ++ [.memRead] ++ [.memRead]) :=
  (h.fetchByte .memRead).fetchByte .memRead

theorem intByte (h : s.Performs t ks) (k : CycleKind) (b : Option Byte) : s.Performs (t.intByte k b).2 (ks ++ [k]) := by
  cases b with
  | some b => exact h.record k _ _
  | none => exact h.trans (single (t.intByte_trace k none) (by simp [State.intByte]))

theorem pushWord (h : s.Performs t ks) (w : Word) : s.Performs (t.pushWord w) (ks ++ [.stackWrite] ++ [.stackWrite]) :=
  ((h.memWrite .stackWrite _ (hi w)).memWrite .stackWrite _ (lo w)).of_same ⟨rfl, rfl⟩

theorem popWord (h : s.Performs t ks) : s.Performs t.popWord.2 (ks ++ [.stackRead] ++ [.stackRead]) :=
  ((h.memRead .stackRead _).memRead .stackRead _).of_same ⟨rfl, rfl⟩

theorem callTo (h : s.Performs t ks) (target : Word) :
    s.Performs (t.callTo target) (ks ++ [.stackWrite] ++ [.stackWrite]) :=
  (h.pushWord t.pc).of_same ⟨rfl, rfl⟩

theorem returnFromStack (h : s.Performs t ks) : s.Performs t.returnFromStack (ks ++ [.stackRead] ++ [.stackRead]) :=
  h.popWord.of_same ⟨rfl, rfl⟩

/-- A conditional call writes the stack only where it is taken (R236). -/
theorem callIf (s : State) (cond : Cond) (target : Word) :
    s.Performs (s.callIf cond target) (callCycles (condHolds s.flags cond)) := by
  unfold State.callIf callCycles
  split
  · exact (refl s).callTo target
  · exact refl s

/-- A conditional return reads the stack only where it is taken (R236). -/
theorem returnIf (s : State) (cond : Cond) : s.Performs (s.returnIf cond) (returnCycles (condHolds s.flags cond)) := by
  unfold State.returnIf returnCycles
  split
  · exact (refl s).returnFromStack
  · exact refl s

/-- The reported duplicates perform the cycles of what they duplicate (93_implementation_defined G2). -/
theorem undefinedDuplicate (s : State) (op : Byte) : s.Performs (s.undefinedDuplicate op) (undefinedCycles op) := by
  unfold State.undefinedDuplicate undefinedCycles
  split
  · exact (refl s).fetchWord.of_same ⟨rfl, rfl⟩
  · split
    · exact (refl s).returnFromStack
    · split
      · exact (refl s).fetchWord.callTo _
      · exact refl s

end State.Performs

/-! ### The machine cycles of an instruction -/

/-- Every instruction, once fetched, performs the remaining cycles of its row of R236. -/
theorem exec_performs {i : Instr} {s t : State} (h : exec i s = .next t) : s.Performs t (dataCycles i s.flags) := by
  have start := State.Performs.refl s
  cases i
  case undefined op =>
    obtain ⟨-, rfl⟩ := exec_undefined_next h
    exact .undefinedDuplicate s op
  all_goals obtain rfl := Host.Outcome.next.inj h
  case movMR | mviM => exact start.writeM _
  case sta | stax => exact start.memWrite _ _ _
  case shld => exact (start.memWrite _ _ _).memWrite _ _ _
  case inrM | dcrM => exact (start.readM.writeM _).setFlags _
  case xthl =>
    have reads := (start.memRead .stackRead s.sp).memRead .stackRead (s.sp + 1)
    exact ((reads.memWrite .stackWrite _ _).memWrite .stackWrite _ _).setPair .hl _
  case push | pushPsw => exact start.pushWord _
  case call | rst => exact start.callTo _
  case cnz | cz | cnc | cc | cpo | cpe | cp | cm => exact .callIf s _ _
  case ret => exact start.returnFromStack
  case rnz | rz | rnc | rc | rpo | rpe | rp | rm => exact .returnIf s _
  case pop | popPsw => exact start.popWord.of_same (by simp)
  case movRM | addM | adcM | subM | sbbM | anaM | xraM | oraM | cmpM => exact start.readM.of_same (by simp)
  case lda | ldax => exact (start.memRead .memRead _).of_same ⟨rfl, rfl⟩
  case lhld => exact ((start.memRead .memRead _).memRead .memRead _).setPair .hl _
  case inPort => exact (start.ioRead _).of_same ⟨rfl, rfl⟩
  case outPort => exact start.ioWrite _ _
  case hlt => exact (start.record .haltAck _ _).of_same ⟨rfl, rfl⟩
  all_goals exact start.of_same (by simp)

/-- The fetch performs one cycle for each byte of the instruction it reads (R222, R236). -/
theorem State.fetchInstr_performs (s : State) : s.Performs s.fetchInstr.2 (fetchCycles s.fetchInstr.1) := by
  have first := (Performs.refl s).fetchByte .fetch
  unfold State.fetchInstr fetchCycles
  dsimp only
  rcases opLength_range (s.fetchByte .fetch).1 with hl | hl | hl <;> simp only [hl]
  · rw [encode_decodeOp_one hl]
    exact first
  · rw [encode_decodeOp_two hl]
    exact first.fetchByte .memRead
  · rw [encode_decodeOp_three hl]
    exact first.fetchWord

/-- The fetch of a step performs the same cycles: the boundary before it has none. -/
theorem State.atFetch_performs (s : State) : s.Performs s.atFetch.fetchInstr.2 (fetchCycles s.nextInstr) := by
  have start : s.Performs s.atFetch [] := (Performs.refl s).of_same ⟨rfl, rfl⟩
  exact start.trans s.atFetch.fetchInstr_performs

/-- Fetched and executed, an instruction performs the cycles of its row of R236, in their order. -/
theorem fetched_performs {s v : State} (h : exec s.nextInstr s.atFetch.fetchInstr.2 = .next v) :
    s.Performs v (sequenceOf s.nextInstr s.flags) := by
  have data := exec_performs h
  rw [State.fetchInstr_flags] at data
  exact s.atFetch_performs.trans data

/-- Taking an interrupt only adds acknowledge cycles (60_exceptions R257, R258). -/
theorem State.takeInterrupt_performs {s t : State} {bytes : List Byte} {i : Instr}
    (h : s.takeInterrupt bytes = .ok (i, t)) : ∃ ks, s.Performs t ks := by
  have start : s.Performs s.acknowledge [] := (Performs.refl s).of_same ⟨rfl, rfl⟩
  unfold State.takeInterrupt at h
  dsimp only at h
  generalize (if s.halted = true then CycleKind.intAckHalt else CycleKind.intAck) = k at h
  split at h
  · cases h
    exact ⟨_, ((start.intByte _ _).intByte _ _).intByte _ _⟩
  · split at h
    · cases h
    · cases h
      exact ⟨_, start.intByte _ _⟩

/-! ### The history of a step -/

/-- `t` has the history of `s` and possibly more: machine cycles, time and free values (log 5 to 7). -/
structure State.Extends (t s : State) : Prop where
  trace : ∃ cycles, t.trace = cycles ++ s.trace
  clock : s.clock ≤ t.clock
  draws : s.draws ≤ t.draws

theorem State.Extends.of_same {s t : State} (h : t.trace = s.trace ∧ t.clock = s.clock ∧ t.draws = s.draws) :
    t.Extends s := by
  obtain ⟨ht, hc, hd⟩ := h
  exact ⟨⟨[], ht⟩, hc.ge, hd.ge⟩

/-- An executed instruction, completed, extends the history by its cycles and its time. -/
theorem complete_extends {i : Instr} {s u v : State} {ks : List CycleKind} (f : Flags) (enable : Bool) (n : Nat)
    (h : exec i u = .next v) (hu : s.Performs u ks) (hc : u.clock = s.clock) : (complete i f enable n v).Extends s := by
  obtain ⟨-, -, -, hclock⟩ := exec_keeps_environment h
  obtain ⟨⟨cycles, htrace, -⟩, hdraws⟩ := hu.trans (exec_performs h)
  exact {
    trace := ⟨cycles.reverse, by rw [complete_trace, htrace]⟩
    clock := by rw [complete_clock, hclock, hc]; exact Nat.le_add_right _ _
    draws := by rw [complete_draws]; exact hdraws }

theorem complete_exec_inputs {i : Instr} {u v : State} (f : Flags) (enable : Bool) (n : Nat) (h : exec i u = .next v) :
    (complete i f enable n v).inputs = u.inputs := by
  obtain ⟨-, hinputs, -⟩ := exec_keeps_environment h
  rw [complete_inputs, hinputs]

/-- Every kind of step extends the history and uses up the inputs of one boundary (60_exceptions R252). -/
theorem step_extends {s t : State} (h : step s = .next t) : t.Extends s ∧ t.inputs = s.inputs.tail := by
  rcases step_next_cases h with ⟨-, rfl⟩ | ⟨-, -, rfl⟩ | ⟨n, i, u, v, -, hu, hv, rfl⟩ | ⟨-, -, -, rfl⟩ | ⟨n, v, -, hv, rfl⟩
  case inl => exact ⟨.of_same ⟨rfl, rfl, rfl⟩, rfl⟩
  case inr.inl => exact ⟨.of_same (by simp [State.holdTurn, State.consumeEnv]), by simp [State.holdTurn]⟩
  case inr.inr.inl =>
    obtain ⟨-, -, -, -, -, -, -, -, hclock, hinputs, -⟩ := State.takeInterrupt_ok hu
    obtain ⟨ks, hks⟩ := State.takeInterrupt_performs hu
    have acknowledged : s.Performs u ks := ⟨hks.cycles, hks.draws⟩
    exact ⟨complete_extends _ _ _ hv acknowledged hclock, (complete_exec_inputs _ _ _ hv).trans hinputs⟩
  case inr.inr.inr.inl => exact ⟨.of_same ⟨rfl, rfl, rfl⟩, rfl⟩
  case inr.inr.inr.inr =>
    exact ⟨complete_extends _ _ _ hv s.atFetch_performs (State.fetchInstr_clock _),
      (complete_exec_inputs _ _ _ hv).trans (State.fetchInstr_inputs _)⟩

/-- Settles O24, by the five kinds of step. -/
theorem historyOnlyGrows : Obligations.HistoryOnlyGrows := by
  intro s t h
  obtain ⟨⟨htrace, hclock, hdraws⟩, hinputs⟩ := step_extends h
  exact ⟨htrace, hclock, hdraws, hinputs⟩

/-! ### Wait states -/

/-- The same turn with `n` more wait states in the instruction it hands on, if it hands on one. -/
def Turn.delay (n : Nat) : Turn → Turn
  | .done s => .done s
  | .stop f => .stop f
  | .run i s enable waits => .run i s enable (waits + n)

/-- The inputs of a boundary with READY always high. -/
def Env.ready (e : Env) : Env := { e with waits := some 0 }

theorem State.interruptTurn_ready {e : Env} {n : Nat} (h : e.waits = some n) (s : State) :
    s.interruptTurn e = (s.interruptTurn e.ready).delay n := by
  have hs : (s.takeHolds e.ready).takeInterrupt e.ready.intBytes = (s.takeHolds e).takeInterrupt e.intBytes := rfl
  unfold State.interruptTurn
  rw [h, hs]
  cases (s.takeHolds e).takeInterrupt e.intBytes with
  | error f => rfl
  | ok p => simp [Env.ready, Turn.delay]

theorem State.fetchTurn_ready {e : Env} {n : Nat} (h : e.waits = some n) (s : State) :
    s.fetchTurn e = (s.fetchTurn e.ready).delay n := by
  simp [State.fetchTurn, h, Env.ready, Turn.delay, State.takeHolds]

theorem State.haltTurn_delay (s : State) (n : Nat) : s.haltTurn.delay n = s.haltTurn := by
  unfold State.haltTurn
  split <;> rfl

/-- Wait states do not decide what a boundary does (50_machine_cycles R232), whichever part of 60_exceptions R252 takes it. -/
theorem boundary_ready {s : State} {e : Env} {es : List Env} {n : Nat} (hs : s.inputs = e :: es) (hw : e.waits = some n) :
    boundary s = (boundary { s with inputs := e.ready :: es }).delay n := by
  have henv : s.env = e := by rw [State.env, hs]; rfl
  have hleft : s.consumeEnv = { s with inputs := es } := by rw [State.consumeEnv_eq, hs]; rfl
  have hready : State.env { s with inputs := e.ready :: es } = e.ready := rfl
  have hleft' : State.consumeEnv { s with inputs := e.ready :: es } = { s with inputs := es } := rfl
  have hhold : ∀ u : State, u.holdTurn e.ready = u.holdTurn e := fun _ => rfl
  have hgrant : ∀ u : State, u.holdGranted e.ready = u.holdGranted e := fun _ => rfl
  have hlatch : ∀ u : State, u.intLatch e.ready = u.intLatch e := fun _ => rfl
  have hreset : e.ready.reset = e.reset := rfl
  simp only [boundary, henv, hleft, hready, hleft', hhold, hgrant, hlatch, hreset]
  split_ifs
  · rfl
  · rfl
  · exact State.interruptTurn_ready hw _
  · exact (State.haltTurn_delay _ n).symm
  · exact State.fetchTurn_ready hw _

/-- An instruction with `n` more wait states comes to the same state `n` states later. -/
theorem complete_delay (i : Instr) (f : Flags) (enable : Bool) (m n : Nat) (u : State) :
    complete i f enable (m + n) u =
      { complete i f enable m u with clock := (complete i f enable m u).clock + n } := by
  simp only [complete_eq, Nat.add_assoc]

/-- Settles O20: the boundary does the same but for the wait states of the instruction it hands on, and these are only counted
where that instruction is completed. -/
theorem waitStatesOnlyAddTime : Obligations.WaitStatesOnlyAddTime := by
  intro s e es n hs hw
  have hb := boundary_ready hs hw
  change step s = step { s with inputs := e.ready :: es } ∨
    ∃ t, step { s with inputs := e.ready :: es } = .next t ∧ step s = .next { t with clock := t.clock + n }
  generalize ({ s with inputs := e.ready :: es } : State) = r at hb ⊢
  cases hr : boundary r with
  | done t =>
    rw [hr] at hb
    exact .inl (by rw [step_of_boundary_done hb, step_of_boundary_done hr])
  | stop r =>
    rw [hr] at hb
    exact .inl (by rw [step_of_boundary_stop hb, step_of_boundary_stop hr])
  | run i u enable m =>
    rw [hr] at hb
    rw [step_of_boundary_run hb, step_of_boundary_run hr]
    cases exec i u with
    | next v => exact .inr ⟨_, rfl, congrArg _ (complete_delay i u.flags enable m n v)⟩
    | fault _ => exact .inl rfl
    | refused _ => exact .inl rfl

/-! ### The states of each machine cycle -/

/-- How many machine cycles follow M1, those without bus access and the halt acknowledge included (R222, R236). -/
def cyclesAfterM1 (i : Instr) (f : Flags) : Nat := (sequenceOf i f).length - 1 + internalCycles i

theorem cycleStates_eq (i : Instr) (f : Flags) :
    cycleStates i f = fetchStates i :: laterStates i (cyclesAfterM1 i f) := rfl

/-- The cycles of R236, with the halt acknowledge of HLT besides (90_conflicts C4). -/
theorem cyclesAfterM1_add_one (i : Instr) (f : Flags) :
    cyclesAfterM1 i f + 1 = cyclesOf i f + (if i = .hlt then 1 else 0) := by
  cases i
  case dad | hlt => rfl
  all_goals simp [cyclesAfterM1, cyclesOf, internalCycles, sequenceOf, fetchCycles]

/-- A conditional call: after M1 three states for each stack write and each of bytes 2 and 3 (R236). -/
theorem callStates_eq (taken : Bool) : callStates taken = 5 + 3 * ((callCycles taken).length + 2) := by
  cases taken <;> rfl

theorem returnStates_eq (taken : Bool) : returnStates taken = 5 + 3 * (returnCycles taken).length := by
  cases taken <;> rfl

/-- What an undefined opcode takes is what its reported duplicate takes (93_implementation_defined G2, log 13). -/
theorem undefinedStates_eq (op : Byte) :
    undefinedStates op = fetchStates (.undefined op) + 3 * (undefinedCycles op).length := by
  revert op
  decide

/-- The states of an instruction are those of M1 and three for each later cycle (R221). -/
theorem statesOf_eq {i : Instr} (h : i ≠ .xthl) (f : Flags) : statesOf i f = fetchStates i + 3 * cyclesAfterM1 i f := by
  cases i
  case xthl => exact absurd rfl h
  case cnz | cz | cnc | cc | cpo | cpe | cp | cm => exact callStates_eq _
  case rnz | rz | rnc | rc | rpo | rpe | rp | rm => exact returnStates_eq _
  case undefined op => exact undefinedStates_eq op
  all_goals rfl

/-- The states of an instruction are those of its cycles (R221, R236). -/
theorem statesOf_eq_sum (i : Instr) (f : Flags) :
    statesOf i f = fetchStates i + (laterStates i (cyclesAfterM1 i f)).sum := by
  by_cases h : i = .xthl
  · subst h
    rfl
  · rw [laterStates_sum h, statesOf_eq h]

theorem laterStates_cyclesAfterM1_length (i : Instr) (f : Flags) :
    (laterStates i (cyclesAfterM1 i f)).length = cyclesAfterM1 i f := by
  by_cases h : i = .xthl
  · subst h
    rfl
  · exact laterStates_length h _

theorem statesOf_le (i : Instr) (f : Flags) : statesOf i f ≤ 18 := by
  have hcall : ∀ taken, callStates taken ≤ 18 := by decide
  have hreturn : ∀ taken, returnStates taken ≤ 18 := by decide
  have hundefined : ∀ op, undefinedStates op ≤ 18 := by decide
  cases i
  case cnz | cz | cnc | cc | cpo | cpe | cp | cm => exact hcall _
  case rnz | rz | rnc | rc | rpo | rpe | rp | rm => exact hreturn _
  case undefined op => exact hundefined op
  all_goals exact Nat.le_of_ble_eq_true rfl

theorem le_statesOf (i : Instr) (f : Flags) : 4 ≤ statesOf i f := by
  by_cases h : i = .xthl
  · subst h
    exact Nat.le_of_ble_eq_true rfl
  · rw [statesOf_eq h]
    have := fetchStates_range i
    omega

/-! ### Which first bytes are fetched in five states -/

theorem fetchStates_decodeMisc (op b2 b3 : Byte) : fetchStates (decodeMisc op b2 b3) = fetchStates (decodeMisc op 0 0) := by
  simp only [decodeMisc]
  generalize (lowField op).toNat = x
  generalize (midField op).toNat = y
  generalize regOfCode (midField op) = z
  repeat' split
  all_goals rfl

theorem fetchStates_decodeControl (op b2 b3 : Byte) :
    fetchStates (decodeControl op b2 b3) = fetchStates (decodeControl op 0 0) := by
  simp only [decodeControl]
  generalize (lowField op).toNat = x
  generalize (midField op).toNat = y
  split <;> rfl

/-- The states of M1 are fixed by the byte it fetches (R226). -/
theorem fetchStates_decodeOp (op b2 b3 : Byte) : fetchStates (decodeOp op b2 b3) = fetchStates (decodeOp op 0 0) := by
  simp only [decodeOp]
  generalize (groupField op).toNat = g
  split
  · exact fetchStates_decodeMisc op b2 b3
  · rfl
  · rfl
  · exact fetchStates_decodeControl op b2 b3

/-- The first bytes of R226 by group, DDD and SSS: MOV r1, r2; INR r and DCR r; INX and DCX; SPHL, PCHL, the pushes and CALL; RST
and the conditional calls and returns. -/
theorem fetchStates_table : ∀ op : Byte, op ∉ undefinedOpcodes →
    fetchStates (decodeOp op 0 0) =
      if (op.toNat / 64 = 1 ∧ op.toNat / 8 % 8 ≠ 6 ∧ op.toNat % 8 ≠ 6) ∨
          (op.toNat / 64 = 0 ∧ op.toNat / 8 % 8 ≠ 6 ∧ (op.toNat % 8 = 4 ∨ op.toNat % 8 = 5)) ∨
          (op.toNat / 64 = 0 ∧ op.toNat % 8 = 3) ∨ op ∈ [0xF9, 0xE9, 0xC5, 0xD5, 0xE5, 0xF5, 0xCD] ∨
          (op.toNat / 64 = 3 ∧ (op.toNat % 8 = 7 ∨ op.toNat % 8 = 4 ∨ op.toNat % 8 = 0)) then 5
      else 4 := by
  decide

/-! ### The timing of a fetched instruction -/

/-- A fetching step takes the states and performs the machine cycles of its instruction's row of R236. -/
theorem fetched_timing {s t : State} {n : Nat} (hf : s.fetchesNext n) (h : step s = .next t) :
    t.clock = s.clock + (statesOf s.nextInstr s.flags + n) ∧ s.Performs t (sequenceOf s.nextInstr s.flags) := by
  obtain ⟨v, hv, rfl⟩ := finish_next ((step_of_fetchesNext hf).symm.trans h)
  obtain ⟨-, -, -, hclock⟩ := exec_keeps_environment hv
  constructor
  · rw [complete_clock, hclock, State.fetchInstr_clock, State.fetchInstr_flags]
    rfl
  · exact (fetched_performs hv).of_same (by simp)

/-- Settles O25: the cycles of a fetched instruction by `fetched_performs`, and its states from those of its cycles. -/
theorem fetchedInstructionTiming : Obligations.FetchedInstructionTiming := by
  refine ⟨fun s t n hf h => ?row, fun i f => ?states, fun _ => rfl, ?m1⟩
  case row =>
    obtain ⟨hclock, hcycles⟩ := fetched_timing hf h
    exact ⟨hclock, hcycles.cycles⟩
  case states =>
    refine ⟨_, cycleStates_eq i f, statesOf_eq_sum i f, fun hi n hn => laterStates_three hi hn, ?count, le_statesOf i f,
      statesOf_le i f⟩
    rw [laterStates_cyclesAfterM1_length, cyclesAfterM1_add_one]
  case m1 =>
    rintro op b2 b3 _ _ _ hop rfl rfl rfl
    rw [fetchStates_decodeOp]
    exact fetchStates_table op hop

end Sys2Proof.Machine

/-! PROOF. Interrupts, HOLD and the halt state (spec 60_exceptions.md rules R250 to R266): what a granted HOLD changes, between two
steps and inside an instruction; what an interrupting device makes the CPU execute; when a boundary idles, stops or goes on. -/

namespace Sys2Proof.Machine

/-! ### The HOLD master at a boundary -/

theorem State.dmaAccess_changes_memory_only (s : State) (op : DmaOp) : ∃ m, s.dmaAccess op = { s with mem := m } := by
  cases op with
  | read _ => exact ⟨s.mem, rfl⟩
  | write addr v =>
    simp only [State.dmaAccess]
    split
    · exact ⟨_, rfl⟩
    · exact ⟨s.mem, rfl⟩

/-- Whatever the HOLD master does, only memory changes (60_exceptions R266). -/
theorem State.dmaAccesses_changes_memory_only (s : State) (ops : List DmaOp) :
    ∃ m, s.dmaAccesses ops = { s with mem := m } := by
  induction ops generalizing s with
  | nil => exact ⟨s.mem, rfl⟩
  | cons op ops ih =>
    obtain ⟨m, hm⟩ := s.dmaAccess_changes_memory_only op
    obtain ⟨m', hm'⟩ := ih { s with mem := m }
    exact ⟨m', by rw [State.dmaAccesses, hm, hm']⟩

/-- What the HOLD master leaves in any byte: its last write there where RAM answers, the old content elsewhere (log 8, log 25). -/
theorem State.dmaAccesses_byteAt_eq (s : State) (ops : List DmaOp) (h : s.mem.wf = true) (a : Word) :
    (s.dmaAccesses ops).byteAt a =
      if s.kindAt a = .ram then (lastWrite ops a).getD (s.byteAt a) else s.byteAt a := by
  split
  · next hr => exact s.dmaAccesses_read ops a h hr
  · next hr => exact s.dmaAccesses_byteAt ops hr

/-- Settles O10: the boundary is the HOLD master's accesses after HLDA is set, and these change only RAM. -/
theorem holdSuspendsCpu : Obligations.HoldSuspendsCpu := by
  intro s hreset hhold hagent
  have hgranted : s.holdGranted s.env = true := by rw [State.holdGranted, hhold, hagent]; rfl
  obtain ⟨m, hm⟩ := (s.consumeEnv.setHlda true).dmaAccesses_changes_memory_only s.env.dma
  refine ⟨m, ?effect, fun hw a => ?content⟩
  case effect =>
    rw [step_of_boundary_done (boundary_hold hreset hgranted), State.holdTurn, hm]
    rfl
  case content =>
    have hread := (s.consumeEnv.setHlda true).dmaAccesses_byteAt_eq s.env.dma hw a
    rw [hm] at hread
    exact hread

/-! ### The acknowledge of an interrupt -/

/-- The state in which an accepting boundary takes the interrupt. -/
def State.atInterrupt (s : State) : State := (s.consumeEnv.setHlda false).takeHolds s.env

/-- The state after the first acknowledge cycle, in which the device supplied `b`, where no hold falls inside the instruction
(60_exceptions R256, R257). -/
def State.acknowledged (s : State) (b : Byte) : State :=
  { s.interrupted with
    trace := { kind := if s.halted = true then .intAckHalt else .intAck, addr := s.pc, data := some b } :: s.trace }

theorem State.atInterrupt_eq {s : State} (h : s.undisturbed) :
    s.atInterrupt = { s with inputs := s.inputs.tail, hlda := false, holds := [] } :=
  State.takeHolds_undisturbed h

/-- An acknowledge cycle in which the device drives the bus and no hold is due (60_exceptions R257). -/
theorem State.intByte_supplied {s : State} (h : s.holds = []) (k : CycleKind) (b : Byte) :
    s.intByte k (some b) = (b, { s with trace := { kind := k, addr := s.pc, data := some b } :: s.trace }) := by
  rw [State.intByte, State.record_quiet h]

theorem State.atInterrupt_intByte {s : State} (h : s.undisturbed) (b : Byte) :
    s.atInterrupt.acknowledge.intByte (if s.atInterrupt.halted then .intAckHalt else .intAck) (some b) =
      (b, s.acknowledged b) := by
  rw [State.atInterrupt_eq h, State.intByte_supplied (by rfl)]
  rfl

/-! ### The instruction the device supplies -/

/-- A CALL takes its two other bytes from the device, PC on the address lines in all three cycles (D15, log 15). -/
theorem State.takeInterrupt_call {s : State} (h : s.undisturbed) (b2 b3 : Byte) (bytes : List Byte) :
    s.atInterrupt.takeInterrupt (0xCD :: b2 :: b3 :: bytes) =
      .ok (.call (joinBytes b3 b2),
        { s.acknowledged 0xCD with
          trace := { kind := .intAck, addr := s.pc, data := some b3 } ::
            { kind := .intAck, addr := s.pc, data := some b2 } :: (s.acknowledged 0xCD).trace }) := by
  simp only [State.takeInterrupt, List.getElem?_cons_zero, List.getElem?_cons_succ, State.atInterrupt_intByte h, if_true]
  rw [State.intByte_supplied (by rfl)]
  dsimp only
  rw [State.intByte_supplied (by rfl)]
  rfl

/-- A one-byte instruction is taken as it is, unless the platform gives its byte a duplicate of three bytes (log 14). -/
theorem State.takeInterrupt_oneByte {s : State} {b : Byte} (h : s.undisturbed) (hlen : opLength b = 1)
    (hdup : s.platform.undefOpcode = .silicon → b ∉ threeByteDuplicates) (bytes : List Byte) :
    s.atInterrupt.takeInterrupt (b :: bytes) = .ok (decodeOp b 0 0, s.acknowledged b) := by
  have hcall : b ≠ 0xCD := by
    rintro rfl
    exact absurd hlen (by decide)
  have hone : ¬ (opLength b ≠ 1 ∨
      (s.atInterrupt.platform.undefOpcode = .silicon ∧ threeByteDuplicates.contains b = true)) := by
    rintro (hmulti | ⟨hsil, hmem⟩)
    · exact hmulti hlen
    · exact hdup hsil (List.contains_iff_mem.mp hmem)
  simp only [State.takeInterrupt, List.getElem?_cons_zero, State.atInterrupt_intByte h]
  rw [if_neg hcall, if_neg hone]

/-- Every other instruction of several bytes stops the machine (60_exceptions R259). -/
theorem State.takeInterrupt_multiByte {s : State} {b : Byte} (h : s.undisturbed) (hlen : opLength b ≠ 1) (hcall : b ≠ 0xCD)
    (bytes : List Byte) :
    s.atInterrupt.takeInterrupt (b :: bytes) = .error (.badInterruptInstruction b (s.acknowledged b)) := by
  simp only [State.takeInterrupt, List.getElem?_cons_zero, State.atInterrupt_intByte h]
  rw [if_neg hcall, if_pos (.inl hlen)]

/-! ### The step that accepts an interrupt -/

theorem State.interruptTurn_ok {s t : State} {e : Env} {i : Instr} {n : Nat} (hwaits : e.waits = some n)
    (h : (s.takeHolds e).takeInterrupt e.intBytes = .ok (i, t)) : s.interruptTurn e = .run i t false n := by
  simp only [State.interruptTurn, hwaits, h]

theorem State.interruptTurn_error {s : State} {e : Env} {r : Fault} {n : Nat} (hwaits : e.waits = some n)
    (h : (s.takeHolds e).takeInterrupt e.intBytes = .error r) : s.interruptTurn e = .stop r := by
  simp only [State.interruptTurn, hwaits, h]

/-- The instruction the device makes is executed and completed, with no enable pending (60_exceptions R256). -/
theorem step_of_takeInterrupt_ok {s u : State} {i : Instr} {n : Nat} (ha : s.acceptsNext n)
    (h : s.atInterrupt.takeInterrupt s.env.intBytes = .ok (i, u)) :
    step s = finish i u.flags false n (exec i u) := by
  have ⟨_, _, _, hwaits⟩ := ha
  exact step_of_boundary_run ((boundary_interrupt ha).trans (State.interruptTurn_ok hwaits h))

theorem step_of_takeInterrupt_error {s : State} {r : Fault} {n : Nat} (ha : s.acceptsNext n)
    (h : s.atInterrupt.takeInterrupt s.env.intBytes = .error r) : step s = .fault r := by
  have ⟨_, _, _, hwaits⟩ := ha
  exact step_of_boundary_stop ((boundary_interrupt ha).trans (State.interruptTurn_error hwaits h))

/-- Only the opcode byte of an undefined opcode is fetched (30_encoding R78, log 13). -/
theorem opLength_of_mem_undefinedOpcodes {b : Byte} (h : b ∈ undefinedOpcodes) : opLength b = 1 := by
  fin_cases h <;> rfl

theorem mem_undefinedOpcodes_of_mem_threeByteDuplicates {b : Byte} (h : b ∈ threeByteDuplicates) : b ∈ undefinedOpcodes := by
  fin_cases h <;> decide

/-- Settles O13: a defined one-byte instruction is taken whatever the platform makes of the undefined opcodes. -/
theorem interruptRunsOneByteInstruction : Obligations.InterruptRunsOneByteInstruction := by
  intro s n b bytes ha hu hbytes hlen hdef
  have htake := State.takeInterrupt_oneByte hu hlen
    (fun _ hdup => hdef (mem_undefinedOpcodes_of_mem_threeByteDuplicates hdup)) bytes
  rw [← hbytes] at htake
  exact step_of_takeInterrupt_ok ha htake

/-- Settles O14: taking the interrupt already stops at an instruction of several bytes; executing one stops at an undefined
opcode. -/
theorem interruptStopsOnOtherInstructions : Obligations.InterruptStopsOnOtherInstructions := by
  intro s n b bytes ha hu hbytes
  refine ⟨fun hlen hcall => ?multiByte, fun hundef hfault => ?undefined⟩
  case multiByte =>
    have htake := State.takeInterrupt_multiByte hu hlen hcall bytes
    rw [← hbytes] at htake
    exact step_of_takeInterrupt_error ha htake
  case undefined =>
    have hlen : opLength b = 1 := opLength_of_mem_undefinedOpcodes hundef
    have htake := State.takeInterrupt_oneByte hu hlen (fun hsil => by rw [hfault] at hsil; cases hsil) bytes
    rw [← hbytes, decodeOp_of_mem_undefinedOpcodes hundef] at htake
    have hexec : exec (.undefined b) (s.acknowledged b) = .fault (.undefinedOpcode b (s.acknowledged b)) :=
      exec_undefined_fault (by exact hfault) b
    rw [step_of_takeInterrupt_ok ha htake, hexec]
    rfl

/-! ### The entry of an interrupt routine -/

/-- A step that executes a call for the interrupting device: what `State.callTo` writes, and the time (R256, R257). -/
theorem step_of_interrupt_callTo {s u : State} {i : Instr} {n : Nat} {target : Word} (ha : s.acceptsNext n)
    (h : s.atInterrupt.takeInterrupt s.env.intBytes = .ok (i, u)) (hq : u.holds = [])
    (hx : exec i u = .next (u.callTo target)) :
    step s = .next { u with
      sp := u.sp - 2
      pc := target
      holds := []
      mem := u.memAfterPush u.pc
      trace := { kind := .stackWrite, addr := u.sp - 2, data := some (lo u.pc) } ::
        { kind := .stackWrite, addr := u.sp - 1, data := some (hi u.pc) } :: u.trace
      clock := u.clock + (statesOf i u.flags + n) } := by
  rw [step_of_takeInterrupt_ok ha h, hx, finish, complete_eq, State.callTo_quiet hq, Bool.false_and, Bool.false_or]

/-- The byte 11 NNN 111 is RST n (30_encoding R77). -/
theorem decode_rst_byte (k : BitVec 3) :
    opLength (0b11#2 ++ k ++ 0b111#3) = 1 ∧ decodeOp (0b11#2 ++ k ++ 0b111#3) 0 0 = .rst k ∧
      (0b11#2 ++ k ++ 0b111#3) ∉ threeByteDuplicates := by
  revert k
  decide

/-- Settles O11: the device's byte is RST k, whose call pushes the PC that the acknowledge left alone. -/
theorem interruptRestartEntry : Obligations.InterruptRestartEntry := by
  intro s n k bytes ha hu hbytes
  obtain ⟨hlen, hdecode, hdup⟩ := decode_rst_byte k
  have htake := State.takeInterrupt_oneByte hu hlen (fun _ => hdup) bytes
  rw [← hbytes, hdecode] at htake
  refine ⟨s.memAfterPush s.pc, ?_, s.storesAt_memAfterPush s.pc⟩
  rw [step_of_interrupt_callTo ha htake rfl (exec_rst k _), restartAddress_eq_ofNat]
  rfl

/-- Settles O12: as for RST, with the target from the second and third acknowledge cycle. -/
theorem interruptCallEntry : Obligations.InterruptCallEntry := by
  intro s n b2 b3 bytes ha hu hbytes
  have htake := State.takeInterrupt_call hu b2 b3 bytes
  rw [← hbytes] at htake
  refine ⟨s.memAfterPush s.pc, ?_, s.storesAt_memAfterPush s.pc⟩
  rw [step_of_interrupt_callTo ha htake rfl (exec_call _ _)]
  rfl

/-! ### A request with INTE = 0 -/

/-- The inputs of a boundary with no interrupt requested and nothing supplied. -/
def Env.unrequested (e : Env) : Env := { e with int := false, intBytes := [] }

theorem State.intLatch_disabled {s : State} (h : s.inte = false) (e : Env) : s.intLatch e = false := by
  rw [State.intLatch, h, Bool.and_false]

/-- Where INTE is 0 no part of 60_exceptions R252 looks at the request or at the device's bytes (R254). -/
theorem boundary_unrequested {s : State} {e : Env} {es : List Env} (hs : s.inputs = e :: es) (h : s.inte = false) :
    boundary s = boundary { s with inputs := e.unrequested :: es } := by
  have henv : s.env = e := by rw [State.env, hs]; rfl
  have hleft : s.consumeEnv = { s with inputs := es } := by rw [State.consumeEnv_eq, hs]; rfl
  have hlatch : ∀ e', State.intLatch (State.setHlda { s with inputs := es } false) e' = false :=
    State.intLatch_disabled h
  have henv' : State.env { s with inputs := e.unrequested :: es } = e.unrequested := rfl
  have hleft' : State.consumeEnv { s with inputs := e.unrequested :: es } = { s with inputs := es } := rfl
  simp only [boundary, henv, hleft, henv', hleft', hlatch]
  rfl

/-- Settles O15: the boundary decides the same. -/
theorem requestIgnoredWhileDisabled : Obligations.RequestIgnoredWhileDisabled := by
  intro s e es hs h
  rw [step, step, boundary_unrequested hs h]
  rfl

/-! ### The halt state -/

theorem State.wakesLater_iff (s : State) :
    s.wakesLater = true ↔ ∃ e ∈ s.inputs, e.reset = true ∨ (e.hold = true ∧ s.platform.holdAgent = true) := by
  simp only [State.wakesLater, State.holdGranted, List.any_eq_true, Bool.or_eq_true, Bool.and_eq_true]

/-- Settles O16: the halt state goes on where INTE is set or an input to come can end it, as `State.wakesLater` reads the
schedule. -/
theorem haltStateIdles : Obligations.HaltStateIdles := by
  intro s hu hl hh
  have hb := boundary_halt hu hl hh
  have hwakes := (s.consumeEnv.setHlda false).wakesLater_iff
  refine ⟨fun hon => ?idles, fun ⟨hinte, hquiet⟩ => ?stuck⟩
  case idles =>
    have hgoes : ((s.consumeEnv.setHlda false).inte || (s.consumeEnv.setHlda false).wakesLater) = true := by
      rw [Bool.or_eq_true, hwakes]
      exact hon
    rw [State.haltTurn, if_pos hgoes] at hb
    exact step_of_boundary_done hb
  case stuck =>
    have hstays : ¬ ((s.consumeEnv.setHlda false).inte || (s.consumeEnv.setHlda false).wakesLater) = true := by
      rw [Bool.or_eq_true, hwakes]
      rintro (hset | ⟨e, he, hreset | ⟨hhold, hagent⟩⟩)
      · exact absurd (hset.symm.trans hinte) (by decide)
      · obtain ⟨hlow, -⟩ := hquiet e he
        exact absurd (hreset.symm.trans hlow) (by decide)
      · obtain ⟨-, hlow | hnone⟩ := hquiet e he
        · exact absurd (hhold.symm.trans hlow) (by decide)
        · exact absurd (hagent.symm.trans hnone) (by decide)
    rw [State.haltTurn, if_neg hstays] at hb
    exact step_of_boundary_stop hb

/-! ### Defined instructions -/

/-- Every defined instruction answers a next state, whatever the data (60_exceptions R250). -/
theorem exec_next_of_defined {i : Instr} (h : ∀ op, i ≠ .undefined op) (s : State) : ∃ t, exec i s = .next t := by
  cases hx : exec i s with
  | next t => exact ⟨t, rfl⟩
  | fault r =>
    obtain ⟨op, hop, -, -⟩ := exec_fault hx
    exact absurd hop (h op)
  | refused r => exact absurd hx (exec_ne_refused i s r)

/-- Settles O27: the fetch hands on its instruction, and a defined one answers a next state. -/
theorem definedInstructionsRun : Obligations.DefinedInstructionsRun := by
  intro s n hf hdef
  obtain ⟨t, ht⟩ := exec_next_of_defined hdef s.atFetch.fetchInstr.2
  exact ⟨_, by rw [step_of_fetchesNext hf, ht, finish]⟩

/-! ### A hold inside an instruction -/

/-- A machine cycle after which the HOLD master writes one byte of RAM (R266). -/
theorem State.record_then_dmaWrite {s : State} {a : Word} {v : Byte} (h : s.holds = [[.write a v]]) (hr : s.isRam a)
    (k : CycleKind) (x : Word) (d : Option Byte) :
    s.record k x d =
      State.store { s with holds := [], trace := { kind := k, addr := x, data := d } :: s.trace } a v := by
  simp only [State.record, State.serveHold, h, State.dmaAccesses, State.dmaAccess]
  exact if_pos hr

/-- After a read the CPU has the byte from before the HOLD master's write (R266, 20_memory R58). -/
theorem State.memRead_then_dmaWrite {s : State} {a : Word} {v : Byte} (h : s.holds = [[.write a v]]) (hr : s.isRam a)
    (k : CycleKind) (x : Word) :
    s.memRead k x = (s.readValue x, ((s.readCycle k x).setHolds []).store a v) := by
  have hdraws : s.afterRead x = { s with draws := (s.afterRead x).draws } := by
    unfold State.afterRead
    split <;> rfl
  rw [State.memRead, State.record_then_dmaWrite (by rw [State.afterRead_holds, h])
    (by rw [State.isRam, State.afterRead_kindAt]; exact hr), hdraws]
  rfl

/-- A byte stored reads back. -/
theorem State.store_byteAt {s : State} (h : s.mem.wf = true) (a : Word) (v : Byte) : (s.store a v).byteAt a = v :=
  Memory.read_write_same _ _ h

/-- INR M is not atomic: it writes back the byte from before the HOLD master's write, and nothing else (20_memory R60). -/
theorem exec_inrM_then_dmaWrite {s : State} {a : Word} {v : Byte} (h : s.holds = [[.write a v]]) (hw : s.mem.wf = true)
    (ha : s.isRam a) (hm : s.isRam s.hl) :
    ∃ t, exec .inrM s = .next t ∧ t.byteAt s.hl = s.byteAt s.hl + 1 ∧ (a ≠ s.hl → t.byteAt a = v) := by
  have hread := State.memRead_then_dmaWrite h ha .memRead s.hl
  rw [State.readValue_memory (.inl hm)] at hread
  set u := ((s.readCycle .memRead s.hl).setHolds []).store a v
  have hcanonical : u.mem.wf = true := Memory.write_wf a v hw
  refine ⟨_, exec_inrM s, ?same, fun hne => ?other⟩
  all_goals
    rw [State.readM, hread, increment_fst, State.writeM, State.memWrite_quiet (by rfl)]
  case same => exact State.memAfterWrite_ram _ hcanonical hm
  case other => exact (State.memAfterWrite_other u _ hne).trans (State.store_byteAt hw a v)

/-- LHLD reads H after what the HOLD master wrote once L was read (20_memory R54). -/
theorem exec_lhld_then_dmaWrite {s : State} {a : Word} {v : Byte} (h : s.holds = [[.write a v]]) (hw : s.mem.wf = true)
    (ha : s.isRam a) :
    ∃ t, exec (.lhld (a - 1)) s = .next t ∧ t.regs.h = v ∧ t.byteAt a = v := by
  have hnext : a - 1 + 1 = a := BitVec.sub_add_cancel a 1
  have hv := State.store_byteAt (s := (s.readCycle .memRead (a - 1)).setHolds []) hw a v
  refine ⟨_, exec_lhld (a - 1) s, ?_⟩
  rw [State.memRead_then_dmaWrite h ha, hnext]
  dsimp only
  rw [State.memRead_readCycle (by rfl), State.readValue_memory (.inl (by exact ha)), hv, State.setPair_hl_joinBytes]
  exact ⟨rfl, hv⟩

/-- Settles O60, by the one read that the hold follows. -/
theorem holdInsideInstruction : Obligations.HoldInsideInstruction := by
  intro s a v h hw ha
  refine ⟨?_, exec_lhld_then_dmaWrite h hw ha⟩
  rintro _ rfl hm
  exact exec_inrM_then_dmaWrite h hw ha hm

end Sys2Proof.Machine

/-! PROOF. The RESET event at a step boundary (spec 60_exceptions.md rule R252 part 1, 70_reset_and_hazards.md rule R280). -/

namespace Sys2Proof.Machine

/-- The RESET event writes these five fields and no other (70_reset R280, decision D8). -/
theorem State.resetEvent_eq (s : State) :
    s.resetEvent = { s with pc := 0x0000, inte := false, hlda := false, halted := false, eiPending := false } := rfl

/-- Settles O8: RESET takes the boundary before anything else does, and is `State.resetEvent` once the inputs of the boundary
are used up. -/
theorem resetEventClears : Obligations.ResetEventClears := by
  intro s hreset
  have hboundary : boundary s = .done s.consumeEnv.resetEvent := boundary_reset hreset
  rw [step_of_boundary_done hboundary, State.resetEvent_eq, State.consumeEnv_eq]

end Sys2Proof.Machine
